-- ==== Sys2Proof/Word.lean ====
section
/-! DEFINITION. The value types of the block: bytes, 64-bit words and byte sequences (spec 00_scope.md
R8, R14, R15). -/

namespace Sys2Proof

/-- An 8-bit unsigned value; bit 0 has weight 1, bit 7 weight 128 (R14). -/
abbrev Byte := BitVec 8

/-- A 64-bit unsigned length, size, limit or count (R8, `LEN_W = 64`). -/
abbrev Word := BitVec 64

/-- A finite byte sequence; the first byte comes first on the wire and in the stream (R15). -/
abbrev Bytes := List Byte

end Sys2Proof
end

