-- ==== Sys2Proof/Config.lean ====
section
/-! DEFINITION. What the spec fixes for every block (R6, R7, R9), what an implementation fixes (R10, R11),
and the free values. The opaque constants have no body: no proof can see what they are, so a claim holds
whatever they are. -/

namespace Sys2Proof

/-- The most bytes a header may have (00_scope.md R7). -/
def Config.maxHdr : Nat := 9

/-- The largest Length the block encodes, decodes or frames, `2^63 - 1` (R9, 90_conflicts.md C1). -/
def Config.maxLen : Nat := 2 ^ 63 - 1

/-- `LIMIT_RESET`, an OPEN parameter: any 64-bit value (R10). Log entry 6. -/
opaque Config.limitReset : Word

/-- The draw behind `CHUNK_RESET`. Log entry 7. -/
opaque Config.chunkResetDraw : Nat

/-- `CHUNK_RESET`, an OPEN parameter: any 64-bit value that is at least 1 (R11). Every value from 1 to
`2^64 - 1` is this expression for some draw. Log entry 7. -/
def Config.chunkReset : Word := BitVec.ofNat 64 (Config.chunkResetDraw % (2 ^ 64 - 1) + 1)

/-- FREE VALUE: what BUF_LEN or FRAME_LEN reads as when the length does not fit 64 bits. R182 gives the value
only below `2^64`. Log entry 8. -/
opaque Config.lenBeyond : Nat → Word

/-- One error value of the byte source. R13 makes the set a parameter and the block never inspects a value, so
a value is a tag that only equality can see. Log entry 5. -/
structure SrcErr where
  tag : Nat
  deriving DecidableEq, Repr

end Sys2Proof
end

