-- ==== Sys2Proof/Machine/Wire.lean ====
section
/-! DEFINITION. The wire format (30_encoding.md Part A): header bytes, the header encoder and decoder
(40_header_codec.md R101, R105), and the frame encoder and decoder (41_frame_codec.md R120, R124). The command
decoder, the codec commands and the scanner all use these functions (42_scanner.md R158). -/

namespace Sys2Proof.Machine

/-- The digit of a header byte, bits 6..0 (R71). -/
def digitOf (b : Byte) : BitVec 7 := b.extractLsb' 0 7

/-- The continuation bit of a header byte, bit 7 (R71). -/
def isCont (b : Byte) : Bool := b.getLsbD 7

/-- The header byte with continuation bit `c` and digit `d` (R71). -/
def headerByte (c : Bool) (d : BitVec 7) : Byte := BitVec.ofBool c ++ d

/-- The loop of HdrEncode (R101) on the value left, `v`. The first argument bounds the rounds: 10 rounds empty
every 64-bit value. -/
def hdrEncodeLoop : Nat → Word → Bytes
  | 0, _ => []
  | rounds + 1, v =>
    if v = 0 then []
    else headerByte (decide (v >>> 7 ≠ 0)) (v.extractLsb' 0 7) :: hdrEncodeLoop rounds (v >>> 7)

/-- `HdrEncode(L)` (R101). Length 0 is the single byte 0 (R76). -/
def hdrEncode (len : Word) : Bytes :=
  if len = 0 then [0x00#8] else hdrEncodeLoop 10 len

/-- The three outcomes of a header decode (R18, R105). -/
inductive HdrResult where
  | ok (h : Nat) (n : Word)
  | insufficient
  | tooLarge
  deriving DecidableEq, Repr

/-- The loop of HdrDecode (R105): `left` header bytes may still come, `k` have been read, `acc` holds their digits. -/
def hdrDecodeLoop : Nat → Nat → Word → Bytes → HdrResult
  | 0, _, _, [] => .insufficient
  | 0, _, _, _ :: _ => .tooLarge
  | _ + 1, _, _, [] => .insufficient
  | left + 1, k, acc, b :: rest =>
    let acc' := acc ||| ((digitOf b).setWidth 64 <<< (7 * k))
    if isCont b then hdrDecodeLoop left (k + 1) acc' rest else .ok (k + 1) acc'

/-- `HdrDecode(s)` (R105). -/
def hdrDecode (s : Bytes) : HdrResult := hdrDecodeLoop Config.maxHdr 0 0 s

/-- `FrmEncode(P)` (R120), for `len(P) ≤ MAX_LEN`. -/
def frmEncode (payload : Bytes) : Bytes := hdrEncode (BitVec.ofNat 64 payload.length) ++ payload

/-- The four outcomes of a frame decode (R18, R122). -/
inductive FrmResult where
  | ok (payload : Bytes) (consumed : Nat)
  | headerInsufficient
  | headerTooLarge
  | insufficient
  deriving DecidableEq, Repr

/-- `FrmDecode(s)` (R124). The sum `h + n` is exact (R123). -/
def frmDecode (s : Bytes) : FrmResult :=
  match hdrDecode s with
  | .insufficient => .headerInsufficient
  | .tooLarge => .headerTooLarge
  | .ok h n =>
    if s.length < h + n.toNat then .insufficient
    else .ok ((s.drop h).take n.toNat) (h + n.toNat)

end Sys2Proof.Machine
end

