-- ==== Sys2Proof/Syntax.lean ====
section
/-! DEFINITION. The commands of the block, one constructor per row of spec/opcode_table.json (30_encoding.md
R84), the names of their opcodes, operand forms and registers, and the ways an encoding can be illegal (R85). -/

namespace Sys2Proof

/-- A command with its operand as a value (R80, R84). -/
inductive Instr where
  /-- HDR_ENC, R101. -/
  | hdrEnc (length : Word)
  /-- HDR_DEC, R106. -/
  | hdrDec (data : Bytes)
  /-- FRM_ENC, R120. -/
  | frmEnc (payload : Bytes)
  /-- FRM_DEC, R124. -/
  | frmDec (data : Bytes)
  /-- SCAN, R144. -/
  | scan
  /-- FRAME_RD, R183. -/
  | frameRd
  /-- SRCERR_RD, R184. -/
  | srcerrRd
  /-- CFG_LIMIT, R180. -/
  | cfgLimit (value : Word)
  /-- CFG_CHUNK, R181. -/
  | cfgChunk (value : Word)
  /-- REG_RD, R182: the operand is the register number as passed, so that a number with no register (R38) can
  still be given to the meaning. -/
  | regRd (n : Byte)
  deriving DecidableEq, Repr

/-- The ten commands by name, without operand (R84). -/
inductive Op where
  | hdrEnc | hdrDec | frmEnc | frmDec | scan | frameRd | srcerrRd | cfgLimit | cfgChunk | regRd
  deriving DecidableEq, Repr

/-- The operand forms of R80. -/
inductive OperandForm where
  | none | u64 | bytes | reg
  deriving DecidableEq, Repr

/-- One row of the opcode map (R84). -/
structure OpRow where
  code : Byte
  op   : Op
  form : OperandForm
  deriving DecidableEq, Repr

/-- The registers REG_RD can name (10_state.md R37). -/
inductive Reg where
  | status | err | limit | chunk | bufLen | frameLen
  deriving DecidableEq, Repr

/-- Why an encoding is illegal (R85). Each is the fault ILLEGAL_COMMAND (60_exceptions.md R206). -/
inductive DecodeError where
  /-- A command of no bytes. -/
  | emptyCommand
  /-- An opcode that is not in R84. -/
  | unassignedOpcode (op : Byte)
  /-- More or fewer operand bytes than the operand form has (R80). -/
  | wrongLength
  /-- A `bytes` operand whose framing header does not decode, or whose byte count is not `h + L` (R82). -/
  | badFraming
  /-- A `reg` operand with no register (R83). -/
  | reservedRegister (n : Byte)
  deriving DecidableEq, Repr

end Sys2Proof
end

