-- ==== Sys2Proof/Machine/Operands.lean ====
section
/-! DEFINITION. The operand forms of a command (30_encoding.md R80-R83): how each is read from the bytes after the
opcode, how each is written, and how many bytes it takes (R88). -/

namespace Sys2Proof.Machine

/-- The sum of R81 over the bytes given, the first of them having weight `2^(8k)`. -/
def u64Sum : Nat → Bytes → Word
  | _, [] => 0
  | k, b :: rest => (b.setWidth 64 <<< (8 * k)) + u64Sum (k + 1) rest

/-- A `u64` operand: exactly 8 bytes, little-endian (R80, R81). -/
def u64Operand (operand : Bytes) : Except DecodeError Word :=
  if operand.length = 8 then .ok (u64Sum 0 operand) else .error .wrongLength

/-- The 8 bytes of a `u64` operand, least significant first (R81). -/
def u64Bytes (v : Word) : Bytes :=
  [v.extractLsb' 0 8, v.extractLsb' 8 8, v.extractLsb' 16 8, v.extractLsb' 24 8,
   v.extractLsb' 32 8, v.extractLsb' 40 8, v.extractLsb' 48 8, v.extractLsb' 56 8]

/-- A `bytes` operand: a framing header that decodes to `HOk(h, L)` and exactly `h + L` bytes in all; its value is
the payload (R82). A non-canonical framing header is read as R75 says. -/
def bytesOperand (operand : Bytes) : Except DecodeError Bytes :=
  match hdrDecode operand with
  | .ok h n => if operand.length = h + n.toNat then .ok (operand.drop h) else .error .badFraming
  | .insufficient => .error .badFraming
  | .tooLarge => .error .badFraming

/-- The `none` form: no bytes (R80). -/
def noOperand (operand : Bytes) : Except DecodeError Unit :=
  if operand = [] then .ok () else .error .wrongLength

/-- The register of a register number; 0x06 to 0xFF are reserved (10_state.md R37, R38). -/
def regOfNumber (n : Byte) : Option Reg :=
  if n = 0x00#8 then some .status
  else if n = 0x01#8 then some .err
  else if n = 0x02#8 then some .limit
  else if n = 0x03#8 then some .chunk
  else if n = 0x04#8 then some .bufLen
  else if n = 0x05#8 then some .frameLen
  else none

/-- A `reg` operand: exactly one byte, the number of a register (R80, R83). -/
def regOperand : Bytes → Except DecodeError Byte
  | [n] => if (regOfNumber n).isSome then .ok n else .error (.reservedRegister n)
  | _ => .error .wrongLength

/-- How many bytes the operand has: the form fixes it, with the framing header for the `bytes` form (R88). There is no
length where the framing header does not decode. -/
def operandLength (form : OperandForm) (operand : Bytes) : Option Nat :=
  match form with
  | .none => some 0
  | .u64 => some 8
  | .reg => some 1
  | .bytes =>
    match hdrDecode operand with
    | .ok h n => some (h + n.toNat)
    | .insufficient => none
    | .tooLarge => none

end Sys2Proof.Machine
end

