-- ==== Sys2Proof/WellFormed.lean ====
section
/-! DEFINITION. Which commands have an encoding (30_encoding.md R80-R83). -/

namespace Sys2Proof

/-- A `bytes` operand carries at most MAX_LEN bytes (R82), and a `reg` operand names a register (R83). Every u64 operand
has an encoding (R81), a Length above MAX_LEN among them (90_conflicts.md C1). -/
def wellFormed : Instr → Bool
  | .hdrEnc _ => true
  | .hdrDec data => decide (data.length ≤ Config.maxLen)
  | .frmEnc payload => decide (payload.length ≤ Config.maxLen)
  | .frmDec data => decide (data.length ≤ Config.maxLen)
  | .scan => true
  | .frameRd => true
  | .srcerrRd => true
  | .cfgLimit _ => true
  | .cfgChunk _ => true
  | .regRd n => decide (n.toNat ≤ 5)

end Sys2Proof
end

