-- ==== Sys2Proof/Decode.lean ====
section
/-! DEFINITION. The command decoder (30_encoding.md Part B), total on any byte sequence and rejecting by name; the
encoder, written from the same tables; and the split of a run of commands (R88). -/

namespace Sys2Proof

open Sys2Proof.Machine

/-- The opcode map (R84). -/
def opTable : List OpRow :=
  [⟨0x01#8, .hdrEnc, .u64⟩, ⟨0x02#8, .hdrDec, .bytes⟩, ⟨0x03#8, .frmEnc, .bytes⟩, ⟨0x04#8, .frmDec, .bytes⟩,
   ⟨0x10#8, .scan, .none⟩, ⟨0x11#8, .frameRd, .none⟩, ⟨0x12#8, .srcerrRd, .none⟩,
   ⟨0x20#8, .cfgLimit, .u64⟩, ⟨0x21#8, .cfgChunk, .u64⟩, ⟨0x30#8, .regRd, .reg⟩]

/-- The row of an opcode, if R84 has one. -/
def opRow (code : Byte) : Option OpRow := opTable.find? fun r => r.code = code

/-- The operand of a command, by its opcode. -/
def decodeOperand (op : Op) (operand : Bytes) : Except DecodeError Instr :=
  match op with
  | .hdrEnc => (u64Operand operand).map .hdrEnc
  | .hdrDec => (bytesOperand operand).map .hdrDec
  | .frmEnc => (bytesOperand operand).map .frmEnc
  | .frmDec => (bytesOperand operand).map .frmDec
  | .scan => (noOperand operand).map fun _ => .scan
  | .frameRd => (noOperand operand).map fun _ => .frameRd
  | .srcerrRd => (noOperand operand).map fun _ => .srcerrRd
  | .cfgLimit => (u64Operand operand).map .cfgLimit
  | .cfgChunk => (u64Operand operand).map .cfgChunk
  | .regRd => (regOperand operand).map .regRd

/-- The command a whole byte sequence stands for, or why it stands for none (R80, R84, R85). -/
def decode : Bytes → Except DecodeError Instr
  | [] => .error .emptyCommand
  | code :: operand =>
    match opRow code with
    | none => .error (.unassignedOpcode code)
    | some row => decodeOperand row.op operand

/-- The bytes of a command (R80-R84). A `bytes` operand is framed with the canonical header. -/
def encode : Instr → Bytes
  | .hdrEnc length => 0x01#8 :: u64Bytes length
  | .hdrDec data => 0x02#8 :: frmEncode data
  | .frmEnc payload => 0x03#8 :: frmEncode payload
  | .frmDec data => 0x04#8 :: frmEncode data
  | .scan => [0x10#8]
  | .frameRd => [0x11#8]
  | .srcerrRd => [0x12#8]
  | .cfgLimit value => 0x20#8 :: u64Bytes value
  | .cfgChunk value => 0x21#8 :: u64Bytes value
  | .regRd n => [0x30#8, n]

/-- How many bytes the command at the start of a byte run has, if its opcode and its framing header say so (R88). -/
def commandLength : Bytes → Option Nat
  | [] => none
  | code :: operand =>
    match opRow code with
    | none => none
    | some row => (operandLength row.form operand).map (1 + ·)

/-- The first command of a run of commands written back to back, and the rest of the run (R88). -/
def splitCommand (run : Bytes) : Option (Bytes × Bytes) :=
  match commandLength run with
  | none => none
  | some n => if n ≤ run.length then some (run.take n, run.drop n) else none

/-- The bytes whose bits are `w`, bit 0 the least significant bit of the first byte; every bit from `nbits` on is 0. -/
def rawTableBytes (nbits w : Nat) : Bytes :=
  (List.range ((nbits + 7) / 8)).map fun k => BitVec.ofNat 8 ((w % 2 ^ nbits) >>> (8 * k))

/-- The bytes of the command whose bits are `w`, lengthened with zero bytes to the length its opcode and its framing
header give it (log entry 12). -/
def tableBytes (nbits w : Nat) : Bytes :=
  let raw := rawTableBytes nbits w
  match commandLength (raw ++ List.replicate 9 0x00#8) with
  | none => raw
  | some n => raw ++ List.replicate (n - raw.length) 0x00#8

/-- The command the decoder reads from a table word (log entry 12). -/
def decodeTableWord (nbits w : Nat) : Option Instr :=
  match decode (tableBytes nbits w) with
  | .ok i => some i
  | .error _ => none

end Sys2Proof
end

