-- ==== Sys2Proof/Machine/State.lean ====
section
/-! DEFINITION. The state of the block (10_state.md R22) with the two external agents' plain data beside it, the
state after reset (R41), and the ways a step can stop. -/

namespace Sys2Proof.Machine

/-- The scanner's state (10_state.md R23). -/
inductive Fsm where
  | idle | eval | waitRead | done
  deriving DecidableEq, Repr

/-- The latched signal of a read response (R31). -/
inductive Pending where
  | none | eof | err
  deriving DecidableEq, Repr

/-- The error codes 0 to 6 (R29). -/
inductive ErrCode where
  | none | headerInsufficient | insufficient | headerTooLarge | limitExceeded | sourceError | endMidFrame
  deriving DecidableEq, Repr

/-- The spec's fault codes 1 to 8 (60_exceptions.md R204). -/
inductive FaultCode where
  | illegalCommand | lengthRange | configAfterStart | configInvalid | busyViolation | frameInvalid
  | sourceOverrun | sourceUnsolicited
  deriving DecidableEq, Repr

/-- The signal of a read response (42_scanner.md R141). -/
inductive Signal where
  | ok | eof | err (e : SrcErr)
  deriving DecidableEq, Repr

/-- A read response of the byte source (R141). -/
structure SrcResponse where
  data : Bytes
  sig  : Signal
  deriving DecidableEq, Repr

/-- The response record of each command (30_encoding.md R86). -/
inductive Response where
  | hdrEnc (bytes : Bytes)
  | hdrDec (status : ErrCode) (hlen dlen : Word)
  | frmEnc (bytes : Bytes)
  | frmDec (status : ErrCode) (payload : Bytes) (offset consumed : Word)
  | scan (ok : Bool)
  | frameRd (bytes : Bytes)
  | srcerrRd (value : Option SrcErr)
  | cfgLimit
  | cfgChunk
  | regRd (value : Word)
  deriving DecidableEq, Repr

/-- Which agent moves (60_exceptions.md R213): the host issues its next command, the byte source gives its next response,
the scanner takes its internal step, or the block is reset and bound to a new byte source (70_reset_and_hazards.md R230).
Log entry 1. -/
inductive Turn where
  | host | source | scanner
  | reset (newSource : List SrcResponse)
  deriving DecidableEq, Repr

/-- The state of one block (10_state.md R22, R44). The last four fields are the model's own: the external agents' plain data
(log entry 1) and the record of responses (log entry 3). -/
structure State where
  /-- `fsm` (R23). -/
  fsm        : Fsm
  /-- `buf`, the accumulation buffer (R24). -/
  buf        : Bytes
  /-- `LIMIT` (R25). -/
  limit      : Word
  /-- `CHUNK` (R26). -/
  chunk      : Word
  /-- `started` (R27). -/
  started    : Bool
  /-- `frame_valid` (R28). -/
  frameValid : Bool
  /-- `frame` (R28). -/
  frame      : Bytes
  /-- `err` (R29). -/
  err        : ErrCode
  /-- `src_err` (R30). -/
  srcErr     : Option SrcErr
  /-- `pending` (R31). -/
  pending    : Pending
  /-- `req`, the size of the outstanding read request (R32). -/
  req        : Option Word
  /-- `fault` (R33). -/
  fault      : Option FaultCode
  /-- The commands the host has still to issue, oldest first; each is delivered whole (30_encoding.md R80). -/
  cmds       : List Bytes
  /-- The responses the byte source has still to give, oldest first (R141, R143). -/
  script     : List SrcResponse
  /-- Who moves next, oldest first (R213). -/
  turns      : List Turn
  /-- The responses sent to the host, oldest first (R86). -/
  sent       : List Response
  deriving DecidableEq, Repr

/-- The state after reset (10_state.md R41): the block's registers at the spec's values, and external agents that have brought
nothing yet (log entry 11). -/
def State.reset : State where
  fsm := .idle
  buf := []
  limit := Config.limitReset
  chunk := Config.chunkReset
  started := false
  frameValid := false
  frame := []
  err := .none
  srcErr := none
  pending := .none
  req := none
  fault := none
  cmds := []
  script := []
  turns := []
  sent := []

/-- Why a step does not go on. -/
inductive Fault where
  /-- The block is stopped by an earlier fault: no agent has a step until reset (60_exceptions.md R205, 93 U18). Raised by every
  step but a reset, and by every command's meaning, in a state whose `fault` field is set. Safe: the model stops where the spec
  says that nothing moves. -/
  | halted (code : FaultCode)
  deriving DecidableEq, Repr

/-- Why a step has no meaning. -/
inductive Refusal where
  /-- The command has no meaning yet; only an arm of `exec` raises it, and no arm does. Safe: nothing is claimed. -/
  | notModelled (mnemonic : String)
  deriving DecidableEq, Repr

end Sys2Proof.Machine
end

