-- ==== Sys2Proof/Machine/Flags.lean ====
section
/-! DEFINITION. The flags and the words the host reads them through (10_state.md R29, R34-R37; 60_exceptions.md R204). The
block has no arithmetic condition codes (R39): its flags are the bits of STATUS. -/

namespace Sys2Proof.Machine

/-- BUSY: a SCAN is in progress (R34). -/
def busy (s : State) : Bool :=
  match s.fsm with
  | .eval => true
  | .waitRead => true
  | .idle => false
  | .done => false

/-- TERMINATED (R34). -/
def terminated (s : State) : Bool :=
  match s.fsm with
  | .done => true
  | .idle => false
  | .eval => false
  | .waitRead => false

/-- The encoding of `fsm` in STATUS[7:6] (R23). -/
def fsmCode : Fsm → BitVec 2
  | .idle => 0
  | .eval => 1
  | .waitRead => 2
  | .done => 3

/-- The encoding of `pending` in STATUS[5:4] (R31). -/
def pendingCode : Pending → BitVec 2
  | .none => 0
  | .eof => 1
  | .err => 2

/-- The number of an error code (R29). -/
def errNumber : ErrCode → BitVec 4
  | .none => 0
  | .headerInsufficient => 1
  | .insufficient => 2
  | .headerTooLarge => 3
  | .limitExceeded => 4
  | .sourceError => 5
  | .endMidFrame => 6

/-- The number of a fault code (R204). -/
def faultNumber : FaultCode → BitVec 4
  | .illegalCommand => 1
  | .lengthRange => 2
  | .configAfterStart => 3
  | .configInvalid => 4
  | .busyViolation => 5
  | .frameInvalid => 6
  | .sourceOverrun => 7
  | .sourceUnsolicited => 8

/-- STATUS (R35), from bit 63 down to bit 0. -/
def statusWord (s : State) : Word :=
  (0 : BitVec 56) ++ fsmCode s.fsm ++ pendingCode s.pending ++ BitVec.ofBool s.frameValid
    ++ BitVec.ofBool (terminated s) ++ BitVec.ofBool s.started ++ BitVec.ofBool (busy s)

/-- ERR (R36). -/
def errWord (s : State) : Word := (errNumber s.err).setWidth 64

/-- A length as a 64-bit value. R182 gives it below `2^64`; from there on it is a free value (log entry 8). -/
def lenWord (n : Nat) : Word := if n < 2 ^ 64 then BitVec.ofNat 64 n else Config.lenBeyond n

end Sys2Proof.Machine
end

