-- ==== Sys2Proof/Machine/Ops.lean ====
section
/-! DEFINITION. The named operations every meaning is made of (00_scope.md R17): responding, raising a fault and the return
from one, the two guards, and the operations on the buffer and the read request. -/

namespace Sys2Proof.Machine

/-- `respond(r)` (R17, 30_encoding.md R86). -/
def respond (r : Response) (s : State) : State := { s with sent := s.sent ++ [r] }

/-- `raise Fault(code)`: the fault is recorded and nothing else of the block changes; no response (60_exceptions.md R205). -/
def raiseFault (code : FaultCode) (s : State) : State := { s with fault := some code }

/-- Reset, the only way out of a fault and out of DONE (70_reset_and_hazards.md R230, R231): every register takes its value of
10_state.md R41 and the block is bound to a new byte source. What belongs to the host stays (log entry 13). -/
def resetBlock (newSource : List SrcResponse) (s : State) : State :=
  { State.reset with cmds := s.cmds, script := newSource, turns := s.turns, sent := s.sent }

/-- A step of a block that is not stopped by a fault (R205). -/
def whenLive (s : State) (effect : State → State) : Host.Outcome State Fault Refusal :=
  match s.fault with
  | some code => .fault (.halted code)
  | none => .next (effect s)

/-- The busy rule (60_exceptions.md R209). -/
def unlessBusy (effect : State → State) (s : State) : State :=
  if busy s then raiseFault .busyViolation s else effect s

/-- The configuration lock: busy first, then CONFIG_AFTER_START (R208, R212). -/
def unlessStarted (effect : State → State) (s : State) : State :=
  unlessBusy (fun s => if s.started then raiseFault .configAfterStart s else effect s) s

/-- `LIMIT <- v` (R17, 43_control.md R180). -/
def setLimit (v : Word) (s : State) : State := { s with limit := v }

/-- `CHUNK <- v` (R17, R181). -/
def setChunk (v : Word) (s : State) : State := { s with chunk := v }

/-- The host's remaining commands, after one is issued (30_encoding.md R80). -/
def setCmds (cmds : List Bytes) (s : State) : State := { s with cmds := cmds }

/-- The byte source's remaining responses, after one is given (20_memory.md R58: a read is destructive). -/
def setScript (script : List SrcResponse) (s : State) : State := { s with script := script }

/-- The accepting step of SCAN in IDLE (42_scanner.md R144). -/
def startScan (s : State) : State := { s with started := true, frameValid := false, fsm := .eval }

/-- `BufAppend(d)` (R17). -/
def bufAppend (d : Bytes) (s : State) : State := { s with buf := s.buf ++ d }

/-- `BufDrop(k)` (R17). -/
def bufDrop (k : Nat) (s : State) : State := { s with buf := s.buf.drop k }

/-- `SrcRequest(n)` (42_scanner.md R142). -/
def srcRequest (n : Word) (s : State) : State := { s with req := some n, fsm := .waitRead }

/-- Latching the signal of a response (R153). -/
def latchSignal (sig : Signal) (s : State) : State :=
  match sig with
  | .ok => s
  | .eof => { s with pending := .eof }
  | .err e => { s with pending := .err, srcErr := some e }

/-- The end of a wait for a response (R153): no request outstanding, and the buffer is examined again. -/
def endWait (s : State) : State := { s with req := none, fsm := .eval }

/-- `Terminate(code)` (R149). -/
def terminate (code : ErrCode) (s : State) : State :=
  respond (.scan false) { s with err := code, frameValid := false, req := none, fsm := .done }

/-- `Emit(h, n)` (R150). -/
def emit (h n : Nat) (s : State) : State :=
  respond (.scan true)
    { bufDrop (h + n) { s with frame := (s.buf.drop h).take n, frameValid := true } with fsm := .idle }

end Sys2Proof.Machine
end

