-- ==== Sys2Proof/Machine/Control.lean ====
section
/-! DEFINITION. Configuration and register access (43_control.md). -/

namespace Sys2Proof.Machine

/-- CFG_LIMIT (R180). -/
def execCfgLimit (value : Word) (s : State) : Host.Outcome State Fault Refusal :=
  whenLive s (unlessStarted fun s => respond .cfgLimit (setLimit value s))

/-- CFG_CHUNK (R181). -/
def execCfgChunk (value : Word) (s : State) : Host.Outcome State Fault Refusal :=
  whenLive s
    (unlessStarted fun s =>
      if value = 0 then raiseFault .configInvalid s else respond .cfgChunk (setChunk value s))

/-- The value of a register, if reading it is legal: FRAME_LEN only while `frame_valid = 1` (10_state.md R37). -/
def readReg (r : Reg) (s : State) : Option Word :=
  match r with
  | .status => some (statusWord s)
  | .err => some (errWord s)
  | .limit => some s.limit
  | .chunk => some s.chunk
  | .bufLen => some (lenWord s.buf.length)
  | .frameLen => if s.frameValid then some (lenWord s.frame.length) else none

/-- REG_RD (R182). The decoder refuses a reserved number before this (R206); the pseudocode's own test stands here too. -/
def execRegRd (n : Byte) (s : State) : Host.Outcome State Fault Refusal :=
  whenLive s fun s =>
    match regOfNumber n with
    | none => raiseFault .illegalCommand s
    | some r =>
      match readReg r s with
      | none => raiseFault .frameInvalid s
      | some v => respond (.regRd v) s

/-- FRAME_RD (R183). -/
def execFrameRd (s : State) : Host.Outcome State Fault Refusal :=
  whenLive s
    (unlessBusy fun s =>
      if s.frameValid then respond (.frameRd s.frame) s else raiseFault .frameInvalid s)

/-- SRCERR_RD (R184). -/
def execSrcerrRd (s : State) : Host.Outcome State Fault Refusal :=
  whenLive s
    (unlessBusy fun s =>
      if s.err = .sourceError then respond (.srcerrRd s.srcErr) s else respond (.srcerrRd none) s)

end Sys2Proof.Machine
end

