-- ==== Sys2Proof/Machine/FrameCodec.lean ====
section
/-! DEFINITION. The frame codec commands (41_frame_codec.md). They read no scanner state (10_state.md R40) and are legal in
every scanner state (60_exceptions.md R209). -/

namespace Sys2Proof.Machine

/-- FRM_ENC (R120). The fault cannot arise from a decoded command (R120; log entry 14). -/
def execFrmEnc (payload : Bytes) (s : State) : Host.Outcome State Fault Refusal :=
  whenLive s fun s =>
    if Config.maxLen < payload.length then raiseFault .lengthRange s
    else respond (.frmEnc (frmEncode payload)) s

/-- The response of FRM_DEC (R124). In the error rows only the status is the source's: the other fields are 92 D7's (log
entry 15). -/
def frmDecResponse (data : Bytes) : Response :=
  match frmDecode data with
  | .ok p c => .frmDec .none p (BitVec.ofNat 64 (c - p.length)) (BitVec.ofNat 64 c)
  | .headerInsufficient => .frmDec .headerInsufficient [] 0 0
  | .insufficient => .frmDec .insufficient [] 0 0
  | .headerTooLarge => .frmDec .headerTooLarge [] 0 0

/-- FRM_DEC (R124). -/
def execFrmDec (data : Bytes) (s : State) : Host.Outcome State Fault Refusal :=
  whenLive s (respond (frmDecResponse data))

end Sys2Proof.Machine
end

