-- ==== Sys2Proof/Machine/HeaderCodec.lean ====
section
/-! DEFINITION. The header codec commands (40_header_codec.md). They read no scanner state and are legal in every scanner
state (R100). -/

namespace Sys2Proof.Machine

/-- HDR_ENC (R101). -/
def execHdrEnc (length : Word) (s : State) : Host.Outcome State Fault Refusal :=
  whenLive s fun s =>
    if Config.maxLen < length.toNat then raiseFault .lengthRange s
    else respond (.hdrEnc (hdrEncode length)) s

/-- The response of HDR_DEC (R106). In the two error rows only the status is the source's: `hlen` and `dlen` are 92 D7's (log
entry 15). -/
def hdrDecResponse (data : Bytes) : Response :=
  match hdrDecode data with
  | .ok h n => .hdrDec .none (BitVec.ofNat 64 h) n
  | .insufficient => .hdrDec .headerInsufficient 0 0
  | .tooLarge => .hdrDec .headerTooLarge 0 0xFFFFFFFFFFFFFFFF#64

/-- HDR_DEC (R106). -/
def execHdrDec (data : Bytes) (s : State) : Host.Outcome State Fault Refusal :=
  whenLive s (respond (hdrDecResponse data))

end Sys2Proof.Machine
end

