-- ==== Sys2Proof/Machine/Scanner.lean ====
section
/-! DEFINITION. The streaming scanner (42_scanner.md): the accepting step of SCAN, the EVAL step, and the taking in of a
response of the byte source. -/

namespace Sys2Proof.Machine

/-- The effect of SCAN (R144): busy faults, DONE answers false and changes nothing, IDLE accepts. -/
def scanAccept (s : State) : State :=
  unlessBusy
    (fun s =>
      match s.fsm with
      | .done => respond (.scan false) s
      | .idle => startScan s
      | .eval => s
      | .waitRead => s)
    s

/-- SCAN (R144). -/
def execScan (s : State) : Host.Outcome State Fault Refusal := whenLive s scanAccept

/-- `NeedMore()` (R151). -/
def needMore (s : State) : State :=
  match s.pending with
  | .eof => if s.buf.length = 0 then terminate .none s else terminate .endMidFrame s
  | .err => terminate .sourceError s
  | .none => srcRequest s.chunk s

/-- The EVAL step (R146), for `fsm = EVAL`. -/
def evalStep (s : State) : State :=
  match hdrDecode s.buf with
  | .tooLarge =>
    if s.limit.toNat < 9 then terminate .limitExceeded s else terminate .headerTooLarge s
  | .ok h n =>
    if s.limit.toNat < h + n.toNat then terminate .limitExceeded s
    else if h + n.toNat ≤ s.buf.length then emit h n.toNat s
    else needMore s
  | .insufficient =>
    if s.limit.toNat < s.buf.length then terminate .limitExceeded s else needMore s

/-- Taking in a response (R153). A response with no request outstanding is SOURCE_UNSOLICITED, one with more bytes than
requested SOURCE_OVERRUN, tested before the bytes are appended (R143, 60_exceptions.md R211, R212; log entry 18). -/
def takeResponse (r : SrcResponse) (s : State) : State :=
  match s.req with
  | none => raiseFault .sourceUnsolicited s
  | some n =>
    if n.toNat < r.data.length then raiseFault .sourceOverrun s
    else endWait (latchSignal r.sig (bufAppend r.data s))

end Sys2Proof.Machine
end

