-- ==== Sys2Proof/Machine/Dispatch.lean ====
section
/-! DEFINITION. The meaning of every command, one arm per constructor of Instr (30_encoding.md R84). -/

namespace Sys2Proof.Machine

def exec (i : Instr) (s : State) : Host.Outcome State Fault Refusal :=
  match i with
  | .hdrEnc length => Sys2Proof.Machine.execHdrEnc length s
  | .hdrDec data => Sys2Proof.Machine.execHdrDec data s
  | .frmEnc payload => Sys2Proof.Machine.execFrmEnc payload s
  | .frmDec data => Sys2Proof.Machine.execFrmDec data s
  | .scan => Sys2Proof.Machine.execScan s
  | .frameRd => Sys2Proof.Machine.execFrameRd s
  | .srcerrRd => Sys2Proof.Machine.execSrcerrRd s
  | .cfgLimit value => Sys2Proof.Machine.execCfgLimit value s
  | .cfgChunk value => Sys2Proof.Machine.execCfgChunk value s
  | .regRd n => Sys2Proof.Machine.execRegRd n s

end Sys2Proof.Machine
end

