-- ==== Sys2Proof/Machine/Agents.lean ====
section
/-! DEFINITION. Who moves, and what each agent's move does (00_scope.md R3, 42_scanner.md R145, 60_exceptions.md R213). -/

namespace Sys2Proof.Machine

/-- A whole command delivered to the block: an illegal encoding is the fault ILLEGAL_COMMAND before any command semantics (R206,
R212), any other is executed. -/
def runCommand (bytes : Bytes) (s : State) : Host.Outcome State Fault Refusal :=
  match decode bytes with
  | .error _ => whenLive s (raiseFault .illegalCommand)
  | .ok i => exec i s

/-- The host's move: it issues its next command, if it has one (20_memory.md R60). -/
def hostMove (s : State) : Host.Outcome State Fault Refusal :=
  match s.cmds with
  | [] => .next s
  | bytes :: rest => runCommand bytes (setCmds rest s)

/-- The byte source's move: it gives its next response, if it has one (42_scanner.md R143). -/
def sourceMove (s : State) : Host.Outcome State Fault Refusal :=
  match s.script with
  | [] => .next s
  | r :: rest => .next (takeResponse r (setScript rest s))

/-- The scanner's own move: the EVAL step, the only one it has (R145, R152). -/
def scannerMove (s : State) : Host.Outcome State Fault Refusal :=
  match s.fsm with
  | .eval => .next (evalStep s)
  | .idle => .next s
  | .waitRead => .next s
  | .done => .next s

/-- Who moves where `turns` says nothing (log entry 2): the scanner while it has a step, the byte source while the scanner waits
for it and it has a response, and the host else, if it has a command. -/
def defaultTurn (s : State) : Option Turn :=
  match s.fsm with
  | .eval => some .scanner
  | .waitRead => if s.script.isEmpty then none else some .source
  | .idle => if s.cmds.isEmpty then none else some .host
  | .done => if s.cmds.isEmpty then none else some .host

/-- Who moves next (log entries 1 and 2). -/
def nextTurn (s : State) : Option Turn :=
  match s.turns with
  | t :: _ => some t
  | [] => defaultTurn s

/-- The turn is spent. -/
def spendTurn (s : State) : State := { s with turns := s.turns.tail }

/-- The move of one agent in a block that is not stopped by a fault. -/
def agentMove (t : Turn) (s : State) : Host.Outcome State Fault Refusal :=
  match t with
  | .host => hostMove s
  | .source => sourceMove s
  | .scanner => scannerMove s
  | .reset newSource => .next (resetBlock newSource s)

/-- One step: in a faulted block only a reset has one (R205); where nobody moves the state stays as it is (R152, R240;
log entry 2). -/
def takeStep (s : State) : Host.Outcome State Fault Refusal :=
  match s.fault, nextTurn s with
  | some _, some (.reset newSource) => .next (resetBlock newSource (spendTurn s))
  | some code, some .host => .fault (.halted code)
  | some code, some .source => .fault (.halted code)
  | some code, some .scanner => .fault (.halted code)
  | some code, none => .fault (.halted code)
  | none, some t => agentMove t (spendTurn s)
  | none, none => .next s

/-- `s` with one more command in front of the host's, and the host to move next. -/
def placeCommand (bytes : Bytes) (s : State) : State :=
  { s with cmds := bytes :: s.cmds, turns := .host :: s.turns }

end Sys2Proof.Machine
end

