-- ==== Sys2Proof/Machine/Step.lean ====
section
/-! DEFINITION. The step of the machine, and how a table word is placed so that the next step runs it. -/

namespace Sys2Proof.Machine

/-- One atomic step of the block and its agents (42_scanner.md R145, 70_reset_and_hazards.md R244). -/
def step (s : State) : Host.Outcome State Fault Refusal := takeStep s

/-- `s` with the command whose bits are `w` as the host's next command, and the host to move next (log entries 11 and 12). -/
def State.withFetchWord (s : State) (nbits w : Nat) : State := placeCommand (tableBytes nbits w) s

end Sys2Proof.Machine
end

