-- ==== Sys2Proof/Safety.lean ====
section
/-! DEFINITION. What counts as a good run and a good state, in the terms the claims use: the ends of a run
(70_reset_and_hazards.md R242), the state invariants (10_state.md R42), frames, the byte stream (20_memory.md R61) and the
reference semantics of a scan (42_scanner.md R159, R160). -/

namespace Sys2Proof.Machine

/-- A run ends well here: the host has no further command, no SCAN is in progress, no fault (R242). -/
def EndsWell (s : State) : Prop :=
  s.cmds = [] ∧ (s.fsm = .idle ∨ s.fsm = .done) ∧ s.fault = none

/-- A run ends faulted here (R242). -/
def EndsFaulted (s : State) : Prop := s.fault ≠ none

/-- Every register of R22 but `fault` is the same. -/
structure SameRegisters (s t : State) : Prop where
  fsm        : t.fsm = s.fsm
  buf        : t.buf = s.buf
  limit      : t.limit = s.limit
  chunk      : t.chunk = s.chunk
  started    : t.started = s.started
  frameValid : t.frameValid = s.frameValid
  frame      : t.frame = s.frame
  err        : t.err = s.err
  srcErr     : t.srcErr = s.srcErr
  pending    : t.pending = s.pending
  req        : t.req = s.req

/-- The buffer does not yet decide the outcome of the SCAN: the branches of the EVAL step that end in NeedMore (R146). -/
def Undecided (limit : Nat) (buf : Bytes) : Prop :=
  match hdrDecode buf with
  | .ok h n => h + n.toNat ≤ limit ∧ buf.length < h + n.toNat
  | .insufficient => buf.length ≤ limit
  | .tooLarge => False

/-- The three cases of R148 in which the buffer makes the scanner terminate with LIMIT_EXCEEDED. -/
def LimitCase (limit : Nat) (buf : Bytes) : Prop :=
  (∃ h n, hdrDecode buf = .ok h n ∧ limit < h + n.toNat) ∨
  (hdrDecode buf = .insufficient ∧ limit < buf.length) ∨
  (hdrDecode buf = .tooLarge ∧ limit < 9)

/-- The seven invariants of R42, and what they rest on: the request is CHUNK (R32), CHUNK is never 0 (R26), a request is
sent only while the buffer is undecided (R146, R163), nothing is buffered before the first SCAN, and only the codes 0, 3, 4, 5
and 6 are in `err` (R29). -/
structure Inv (s : State) : Prop where
  /-- R42 item 1. -/
  reqIffWait      : s.req ≠ none ↔ s.fsm = .waitRead
  /-- R42 item 2. -/
  validIdle       : s.frameValid = true → s.fsm = .idle
  /-- R42 item 3. -/
  errDone         : s.err ≠ .none → s.fsm = .done
  /-- R42 item 4. -/
  startedUnlessIdle : s.fsm ≠ .idle → s.started = true
  /-- R42 item 5. -/
  pendingNotWait  : s.pending ≠ .none → s.fsm ≠ .waitRead
  /-- R42 item 6. -/
  srcErrIffErr    : s.srcErr ≠ none ↔ s.pending = .err
  /-- R42 item 7. -/
  bufBound        : s.buf.length ≤ s.limit.toNat + s.chunk.toNat
  /-- R32. -/
  reqIsChunk      : ∀ n, s.req = some n → n = s.chunk
  /-- R26. -/
  chunkPos        : s.chunk ≠ 0
  /-- R146: a request is sent only while the buffer does not decide the outcome; so `len(buf) ≤ LIMIT` then (R163). -/
  waitUndecided   : s.fsm = .waitRead → Undecided s.limit.toNat s.buf
  /-- Derived from R24 and R180: what lets LIMIT and CHUNK still change. -/
  emptyUnstarted  : s.started = false → s.buf = []
  /-- R29. -/
  errCodes        : s.err = .none ∨ s.err = .headerTooLarge ∨ s.err = .limitExceeded ∨ s.err = .sourceError
    ∨ s.err = .endMidFrame

/-- The command encodings that R80 to R84 give a meaning, in the words of those rules; every other byte sequence is illegal
(R85). -/
def LegalForm (c : Bytes) : Prop :=
  ∃ code operand, c = code :: operand ∧
    ((code ∈ [0x01#8, 0x20#8, 0x21#8] ∧ operand.length = 8) ∨
     (code ∈ [0x02#8, 0x03#8, 0x04#8] ∧
        ∃ h len, hdrDecode operand = .ok h len ∧ operand.length = h + len.toNat) ∨
     (code ∈ [0x10#8, 0x11#8, 0x12#8] ∧ operand = []) ∨
     (code = 0x30#8 ∧ ∃ n : Byte, operand = [n] ∧ n.toNat ≤ 5))

/-- `k` steps, stopping at the first that gives no next state. -/
def runSteps : Nat → State → Host.Outcome State Fault Refusal
  | 0, s => .next s
  | k + 1, s =>
    match step s with
    | .next t => runSteps k t
    | .fault r => .fault r
    | .refused r => .refused r

/-- The bytes still in the stream, in order (20_memory.md R51). -/
def streamBytes (script : List SrcResponse) : Bytes := script.flatMap fun r => r.data

/-- A header is canonical: one byte, or a last byte whose digit is not 0 (30_encoding.md R75). -/
def Canonical (header : Bytes) : Prop :=
  header.length = 1 ∨ ∃ b, header.getLast? = some b ∧ digitOf b ≠ 0

/-- A faithful source's responses to requests of `n` bytes, ending with the signal `sig` (42_scanner.md R159): no response is
longer than asked, and every one but the last carries no signal. -/
def Faithful (n : Nat) (sig : Signal) : List SrcResponse → Prop
  | [] => False
  | [r] => r.data.length ≤ n ∧ r.sig = sig
  | r :: rest => r.data.length ≤ n ∧ r.sig = .ok ∧ Faithful n sig rest

/-- What the scanner has still to get from its source ends with the signal `sig`, end-of-source or error: either the source
is faithful and no signal has come, or the signal is latched and the source gives nothing more. -/
def Awaits (sig : Signal) (s : State) : Prop :=
  (s.pending = .none ∧ sig ≠ .ok ∧ Faithful s.chunk.toNat sig s.script) ∨
  (s.script = [] ∧ s.pending = .eof ∧ sig = .eof) ∨
  (s.script = [] ∧ s.pending = .err ∧ ∃ e, s.srcErr = some e ∧ sig = .err e)

/-- What the next SCAN on the unread stream does. -/
inductive ScanOutcome where
  | frame (payload rest : Bytes)
  | stop (code : ErrCode) (value : Option SrcErr)
  deriving DecidableEq, Repr

/-- `End(frames, S, σ)` of R160. -/
def scanEnd (stream : Bytes) (sig : Signal) : ScanOutcome :=
  match sig with
  | .err e => .stop .sourceError (some e)
  | .ok => if stream = [] then .stop .none none else .stop .endMidFrame none
  | .eof => if stream = [] then .stop .none none else .stop .endMidFrame none

/-- One round of the loop of `ScanSpec` (R160). -/
def scanOne (stream : Bytes) (sig : Signal) (limit : Nat) : ScanOutcome :=
  match hdrDecode stream with
  | .tooLarge => .stop (if limit < 9 then .limitExceeded else .headerTooLarge) none
  | .ok h n =>
    if limit < h + n.toNat then .stop .limitExceeded none
    else if h + n.toNat ≤ stream.length then
      .frame ((stream.drop h).take n.toNat) (stream.drop (h + n.toNat))
    else scanEnd stream sig
  | .insufficient => if limit < stream.length then .stop .limitExceeded none else scanEnd stream sig

/-- `ScanSpec(S, σ, LIMIT)` (R160), with the rounds bounded by the first argument: each round that goes on takes at least one
byte, so `len(S) + 1` rounds are enough. -/
def scanSpec : Nat → Bytes → Signal → Nat → Option (List Bytes × ErrCode × Option SrcErr)
  | 0, _, _, _ => none
  | rounds + 1, stream, sig, limit =>
    match scanOne stream sig limit with
    | .stop code value => some ([], code, value)
    | .frame payload rest =>
      match scanSpec rounds rest sig limit with
      | none => none
      | some (frames, code, value) => some (payload :: frames, code, value)

end Sys2Proof.Machine
end

