-- ==== Sys2Proof/Certificates/Slice0/Obligations.lean ====
section
/-! DEFINITION. The statements for the provers, from the numbered rules of spec/. A response is what a step adds to `sent` (log
entry 3), and a statement about one agent's move names that agent as the one to move next; that the move is then taken from `turns`,
`cmds` or `script` is the model's bookkeeping (log entries 1 and 10). An equation `exec i s = .next { s with … }` is also the frame of
`i`: every field it does not name is as before. -/

open Sys2Proof Sys2Proof.Machine

/- ## Encodings -/

/-- R80 to R84: the decoder reads back every command that has an encoding, with every operand value. -/
def Obligations.DecodeOfEncodeIsIdentity : Prop :=
  ∀ i : Instr, wellFormed i = true → decode (encode i) = .ok i

/-- R89: the worked encodings, in both directions. -/
def Obligations.WorkedEncodings : Prop :=
  ∀ p ∈ [(Instr.hdrEnc 1000#64, [0x01#8, 0xE8#8, 0x03#8, 0x00#8, 0x00#8, 0x00#8, 0x00#8, 0x00#8, 0x00#8]),
         (Instr.hdrDec [0xC8#8, 0x01#8], [0x02#8, 0x02#8, 0xC8#8, 0x01#8]),
         (Instr.frmEnc [0x74#8, 0x65#8, 0x73#8, 0x74#8], [0x03#8, 0x04#8, 0x74#8, 0x65#8, 0x73#8, 0x74#8]),
         (Instr.frmDec [], [0x04#8, 0x00#8]),
         (Instr.scan, [0x10#8]), (Instr.frameRd, [0x11#8]), (Instr.srcerrRd, [0x12#8]),
         (Instr.cfgLimit 16#64, [0x20#8, 0x10#8, 0x00#8, 0x00#8, 0x00#8, 0x00#8, 0x00#8, 0x00#8, 0x00#8]),
         (Instr.cfgChunk 1#64, [0x21#8, 0x01#8, 0x00#8, 0x00#8, 0x00#8, 0x00#8, 0x00#8, 0x00#8, 0x00#8]),
         (Instr.regRd 0x00#8, [0x30#8, 0x00#8]), (Instr.regRd 0x04#8, [0x30#8, 0x04#8])],
    encode p.1 = p.2 ∧ decode p.2 = .ok p.1

/-- R80 to R85: a byte sequence decodes to a command exactly when it has one of the legal forms. -/
def Obligations.ExactlyTheLegalFormsDecode : Prop :=
  ∀ c : Bytes, (∃ i, decode c = .ok i) ↔ LegalForm c

/-- R85, R206: every illegal encoding, and a REG_RD that names a reserved register, faults with ILLEGAL_COMMAND, sends no
response and writes no other register. -/
def Obligations.IllegalCommandsFault : Prop :=
  (∀ (s : State) (c : Bytes) (rest : List Bytes), s.fault = none → nextTurn s = some .host → s.cmds = c :: rest →
    ¬ LegalForm c →
    ∃ t, step s = .next t ∧ t.fault = some .illegalCommand ∧ SameRegisters s t ∧ t.sent = s.sent) ∧
  (∀ (s : State) (n : Byte), s.fault = none → 5 < n.toNat →
    exec (.regRd n) s = .next { s with fault := some .illegalCommand })

/-- R81: the u64 operand of HDR_ENC, CFG_LIMIT and CFG_CHUNK is 8 bytes with the least significant first. -/
def Obligations.U64OperandIsLittleEndian : Prop :=
  ∀ (code : Byte) (make : Word → Instr) (o : Bytes),
    (code, make) ∈ [(0x01#8, Instr.hdrEnc), (0x20#8, Instr.cfgLimit), (0x21#8, Instr.cfgChunk)] →
    o.length = 8 →
    ∃ v : Word, decode (code :: o) = .ok (make v) ∧
      v.toNat = ∑ k ∈ Finset.range 8, (o.getD k 0).toNat * 2 ^ (8 * k)

/-- R82 (with R75): the value of a bytes operand is the payload of its frame, canonical or not; any other operand of these
opcodes is refused; and every sequence of at most MAX_LEN bytes can be passed. -/
def Obligations.BytesOperandIsTheFramedPayload : Prop :=
  ∀ (code : Byte) (make : Bytes → Instr),
    (code, make) ∈ [(0x02#8, Instr.hdrDec), (0x03#8, Instr.frmEnc), (0x04#8, Instr.frmDec)] →
    (∀ (o : Bytes) (h : Nat) (len : Word), hdrDecode o = .ok h len → o.length = h + len.toNat →
      decode (code :: o) = .ok (make (o.drop h))) ∧
    (∀ o : Bytes, (¬ ∃ (h : Nat) (len : Word), hdrDecode o = .ok h len ∧ o.length = h + len.toNat) →
      decode (code :: o) = .error .badFraming) ∧
    (∀ p : Bytes, p.length ≤ Config.maxLen → ∃ o, decode (code :: o) = .ok (make p))

/-- R88: commands written back to back are split without any outside information. -/
def Obligations.CommandsAreSelfDelimiting : Prop :=
  ∀ (c rest : Bytes) (i : Instr), decode c = .ok i → splitCommand (c ++ rest) = some (c, rest)

/- ## The header codec -/

/-- R74: the canonical length of a header, by the formula and by the bounds of the table. -/
def Obligations.HdrEncodeLengthIsMinimal : Prop :=
  ∀ L : Word, L.toNat ≤ Config.maxLen →
    (hdrEncode L).length = (if L = 0 then 1 else (Nat.log2 L.toNat + 1 + 6) / 7) ∧
    1 ≤ (hdrEncode L).length ∧ (hdrEncode L).length ≤ 9 ∧
    L.toNat < 2 ^ (7 * (hdrEncode L).length) ∧
    (1 < (hdrEncode L).length → 2 ^ (7 * ((hdrEncode L).length - 1)) ≤ L.toNat)

/-- R102: byte k of the encoding is `(C << 7) | L[7k+6:7k]`, and the last byte is zero only for L = 0. -/
def Obligations.HdrEncodeBytesAreTheDigits : Prop :=
  ∀ L : Word, L.toNat ≤ Config.maxLen →
    (∀ k, k < (hdrEncode L).length →
      ((hdrEncode L).getD k 0).toNat =
        (if k + 1 < (hdrEncode L).length then 128 else 0) + L.toNat / 2 ^ (7 * k) % 128) ∧
    Canonical (hdrEncode L) ∧
    ((hdrEncode L).getLast? = some 0 ↔ L = 0)

/-- R105 (with R72, R77, R78): the three outcomes of a header decode, each with the exact inputs that give it. -/
def Obligations.HdrDecodeOutcomes : Prop :=
  ∀ s : Bytes,
    (∀ (h : Nat) (n : Word), hdrDecode s = .ok h n ↔
      1 ≤ h ∧ h ≤ 9 ∧ h ≤ s.length ∧
      (∀ k, k + 1 < h → (s.getD k 0).getLsbD 7 = true) ∧
      (s.getD (h - 1) 0).getLsbD 7 = false ∧
      n.toNat = ∑ k ∈ Finset.range h, (s.getD k 0).toNat % 128 * 2 ^ (7 * k)) ∧
    (hdrDecode s = .insufficient ↔ s.length ≤ 9 ∧ ∀ k, k < s.length → (s.getD k 0).getLsbD 7 = true) ∧
    (hdrDecode s = .tooLarge ↔ 10 ≤ s.length ∧ ∀ k, k < 9 → (s.getD k 0).getLsbD 7 = true)

/-- R107 items 1 and 3, R72: a decided outcome does not change when bytes are added, only the first 10 bytes matter, and a
decoded length is at most MAX_LEN. -/
def Obligations.HdrDecodeIsPrefixStable : Prop :=
  (∀ (s t : Bytes) (h : Nat) (n : Word), hdrDecode s = .ok h n →
    hdrDecode (s ++ t) = .ok h n ∧ n.toNat ≤ Config.maxLen) ∧
  (∀ s t : Bytes, hdrDecode s = .tooLarge → hdrDecode (s ++ t) = .tooLarge) ∧
  (∀ s : Bytes, hdrDecode (s.take 10) = hdrDecode s)

/-- R107 item 4: the header round trip, whatever follows the header. -/
def Obligations.HdrRoundTrip : Prop :=
  ∀ (L : Word) (t : Bytes), L.toNat ≤ Config.maxLen →
    hdrDecode (hdrEncode L ++ t) = .ok (hdrEncode L).length L

/-- R107 item 5: a canonical header is re-encoded to itself, any other to a shorter one. -/
def Obligations.HdrReencode : Prop :=
  ∀ (s : Bytes) (h : Nat) (n : Word), hdrDecode s = .ok h n →
    (Canonical (s.take h) → hdrEncode n = s.take h) ∧
    (¬ Canonical (s.take h) → (hdrEncode n).length < h)

/-- R101, R207: HDR_ENC responds the header of a Length up to MAX_LEN and faults above it; with the corner cases of R101. -/
def Obligations.HdrEncResponds : Prop :=
  (∀ (s : State) (L : Word), s.fault = none → L.toNat ≤ Config.maxLen →
    exec (.hdrEnc L) s = .next { s with sent := s.sent ++ [.hdrEnc (hdrEncode L)] }) ∧
  (∀ (s : State) (L : Word), s.fault = none → Config.maxLen < L.toNat →
    exec (.hdrEnc L) s = .next { s with fault := some .lengthRange }) ∧
  hdrEncode 0 = [0x00#8] ∧ hdrEncode 127 = [0x7F#8] ∧ hdrEncode 128 = [0x80#8, 0x01#8] ∧
  hdrEncode 200 = [0xC8#8, 0x01#8] ∧
  hdrEncode 0x7FFFFFFFFFFFFFFF#64 = List.replicate 8 0xFF#8 ++ [0x7F#8]

/-- R106: the response of HDR_DEC for each outcome of the header decode. The claim treats the `hlen` and `dlen` of the two error rows as
any value (93 U6). -/
def Obligations.HdrDecResponds : Prop :=
  ∀ (s : State) (data : Bytes), s.fault = none →
    (∀ (h : Nat) (n : Word), hdrDecode data = .ok h n →
      ∃ hlen : Word, hlen.toNat = h ∧
        exec (.hdrDec data) s = .next { s with sent := s.sent ++ [.hdrDec .none hlen n] }) ∧
    (hdrDecode data = .insufficient →
      ∃ hlen dlen, exec (.hdrDec data) s = .next { s with sent := s.sent ++ [.hdrDec .headerInsufficient hlen dlen] }) ∧
    (hdrDecode data = .tooLarge →
      ∃ hlen dlen, exec (.hdrDec data) s = .next { s with sent := s.sent ++ [.hdrDec .headerTooLarge hlen dlen] })

/-- R106, R105, R201, in the bytes of the operand: when HDR_DEC responds each status, and the header's byte count and value where it
decodes: every byte before the last of the header continues it, and the last ends it. -/
def Obligations.HdrDecStatusByOperand : Prop :=
  ∀ (s : State) (data : Bytes), s.fault = none →
    ∃ (status : ErrCode) (hlen dlen : Word),
      exec (.hdrDec data) s = .next { s with sent := s.sent ++ [.hdrDec status hlen dlen] } ∧
      (status = .headerInsufficient ↔ data.length ≤ 9 ∧ ∀ b ∈ data, b.getLsbD 7 = true) ∧
      (status = .headerTooLarge ↔ 10 ≤ data.length ∧ ∀ b ∈ data.take 9, b.getLsbD 7 = true) ∧
      (status = .none ↔ ∃ b ∈ data.take 9, b.getLsbD 7 = false) ∧
      (status = .none → 1 ≤ hlen.toNat ∧ hlen.toNat ≤ 9 ∧ hlen.toNat ≤ data.length ∧
        (∀ k, k + 1 < hlen.toNat → (data.getD k 0).getLsbD 7 = true) ∧
        (data.getD (hlen.toNat - 1) 0).getLsbD 7 = false ∧
        dlen.toNat = ∑ k ∈ Finset.range hlen.toNat, (data.getD k 0).toNat % 128 * 2 ^ (7 * k))

/- ## The frame codec -/

/-- R120, R207: FRM_ENC responds the header of the payload's length and then the payload; above MAX_LEN it faults. -/
def Obligations.FrmEncResponds : Prop :=
  (∀ (s : State) (p : Bytes), s.fault = none → p.length ≤ Config.maxLen →
    exec (.frmEnc p) s =
      .next { s with sent := s.sent ++ [.frmEnc (hdrEncode (BitVec.ofNat 64 p.length) ++ p)] }) ∧
  (∀ (s : State) (p : Bytes), s.fault = none → Config.maxLen < p.length →
    exec (.frmEnc p) s = .next { s with fault := some .lengthRange })

/-- R124, R122, R123: the response of FRM_DEC for each outcome, the sum `h + n` exact. The claim treats the fields of the error rows
beside the status as any value (93 U6). -/
def Obligations.FrmDecResponds : Prop :=
  ∀ (s : State) (data : Bytes), s.fault = none →
    (hdrDecode data = .insufficient → ∃ p o c,
      exec (.frmDec data) s = .next { s with sent := s.sent ++ [.frmDec .headerInsufficient p o c] }) ∧
    (hdrDecode data = .tooLarge → ∃ p o c,
      exec (.frmDec data) s = .next { s with sent := s.sent ++ [.frmDec .headerTooLarge p o c] }) ∧
    (∀ (h : Nat) (n : Word), hdrDecode data = .ok h n → data.length < h + n.toNat → ∃ p o c,
      exec (.frmDec data) s = .next { s with sent := s.sent ++ [.frmDec .insufficient p o c] }) ∧
    (∀ (h : Nat) (n : Word), hdrDecode data = .ok h n → h + n.toNat ≤ data.length →
      ∃ offset consumed : Word, offset.toNat = h ∧ consumed.toNat = h + n.toNat ∧
        exec (.frmDec data) s =
          .next { s with sent := s.sent ++ [.frmDec .none ((data.drop h).take n.toNat) offset consumed] })

/-- R125 item 1, R121: the frame round trip, whatever follows the frame. -/
def Obligations.FrameRoundTrip : Prop :=
  ∀ p t : Bytes, p.length ≤ Config.maxLen →
    frmDecode (frmEncode p ++ t) = .ok p (frmEncode p).length ∧
    (frmEncode p).length = (hdrEncode (BitVec.ofNat 64 p.length)).length + p.length

/-- R125 item 2: a strict prefix of a frame is never taken for a frame or for a too-large header. -/
def Obligations.FrameTruncationIsDetected : Prop :=
  ∀ (p q r : Bytes), p.length ≤ Config.maxLen → frmEncode p = q ++ r → r ≠ [] →
    frmDecode q =
      if q.length < (hdrEncode (BitVec.ofNat 64 p.length)).length then .headerInsufficient else .insufficient

/-- R125 items 3 and 4: the too-large header, and the advance of a successful decode. -/
def Obligations.FrameDecodeAdvances : Prop :=
  (∀ s : Bytes, 10 ≤ s.length → (∀ k, k < 9 → (s.getD k 0).getLsbD 7 = true) →
    frmDecode s = .headerTooLarge) ∧
  (∀ (s p : Bytes) (c : Nat), frmDecode s = .ok p c →
    1 ≤ c ∧ c ≤ s.length ∧ p.length ≤ c ∧ s = s.take (c - p.length) ++ p ++ s.drop c)

/-- R40, R100: what a codec command does depends on its operand alone: in every scanner state it sends the same response and
writes no register, or it raises the same fault. -/
def Obligations.CodecCommandsHoldNoState : Prop :=
  ∀ i : Instr,
    (∃ L, i = .hdrEnc L) ∨ (∃ d, i = .hdrDec d) ∨ (∃ p, i = .frmEnc p) ∨ (∃ d, i = .frmDec d) →
    (∃ r : Response, ∀ s : State, s.fault = none → exec i s = .next { s with sent := s.sent ++ [r] }) ∨
    (∃ c : FaultCode, ∀ s : State, s.fault = none → exec i s = .next { s with fault := some c })

/- ## The scanner -/

/-- R144: SCAN is accepted in IDLE, answers false in DONE and changes nothing there, and faults while a SCAN is in progress. That
acceptance clears `frame_valid` is "the spec's own reading" (R144). -/
def Obligations.ScanIsAccepted : Prop :=
  ∀ s : State, s.fault = none →
    (s.fsm = .idle →
      exec .scan s = .next { s with started := true, frameValid := false, fsm := .eval }) ∧
    (s.fsm = .done → exec .scan s = .next { s with sent := s.sent ++ [.scan false] }) ∧
    (s.fsm = .eval ∨ s.fsm = .waitRead → exec .scan s = .next { s with fault := some .busyViolation })

/-- R150, taken where R146 takes it: after the limit test and before any latched signal. That order of the tests is "the spec's own"
(R146, R212; R153 calls the late signal "the spec's reading"). -/
def Obligations.EvalEmitsACompleteFrame : Prop :=
  ∀ (s : State) (h : Nat) (n : Word), s.fault = none → nextTurn s = some .scanner → s.fsm = .eval →
    hdrDecode s.buf = .ok h n → h + n.toNat ≤ s.limit.toNat → h + n.toNat ≤ s.buf.length →
    step s = .next { s with
      frame := (s.buf.drop h).take n.toNat, frameValid := true, buf := s.buf.drop (h + n.toNat), fsm := .idle,
      sent := s.sent ++ [.scan true], turns := s.turns.tail }

/-- R148 (with R149): the scanner terminates with LIMIT_EXCEEDED in exactly the three cases, whatever signal is latched. -/
def Obligations.LimitExceededExactlyThen : Prop :=
  ∀ s : State, s.fault = none → nextTurn s = some .scanner → s.fsm = .eval → s.err = .none →
    (LimitCase s.limit.toNat s.buf →
      step s = .next { s with
        err := .limitExceeded, frameValid := false, req := none, fsm := .done,
        sent := s.sent ++ [.scan false], turns := s.turns.tail }) ∧
    (¬ LimitCase s.limit.toNat s.buf → ∃ t, step s = .next t ∧ t.err ≠ .limitExceeded)

/-- R147 (with R149, R105): with a limit of 9 or more, nine continuation bytes and a tenth byte end the scan with
HEADER_TOO_LARGE, whatever signal is latched. -/
def Obligations.TooLargeHeaderTerminates : Prop :=
  ∀ s : State, s.fault = none → nextTurn s = some .scanner → s.fsm = .eval → 9 ≤ s.limit.toNat →
    10 ≤ s.buf.length → (∀ k, k < 9 → (s.buf.getD k 0).getLsbD 7 = true) →
    step s = .next { s with
      err := .headerTooLarge, frameValid := false, req := none, fsm := .done,
      sent := s.sent ++ [.scan false], turns := s.turns.tail }

/-- R151 (with R142, R149, R146): while the buffer decides nothing, the scanner asks for CHUNK bytes, or acts on the latched
signal. -/
def Obligations.UndecidedBufferNeedsMore : Prop :=
  ∀ s : State, s.fault = none → nextTurn s = some .scanner → s.fsm = .eval → Undecided s.limit.toNat s.buf →
    (s.pending = .none →
      step s = .next { s with req := some s.chunk, fsm := .waitRead, turns := s.turns.tail }) ∧
    (s.pending ≠ .none →
      step s = .next { s with
        err := (if s.pending = .err then .sourceError else if s.buf = [] then .none else .endMidFrame),
        frameValid := false, req := none, fsm := .done,
        sent := s.sent ++ [.scan false], turns := s.turns.tail })

/-- R153: taking in a response of at most the requested size: the bytes are appended, and a signal is latched, in one step. That the
bytes are kept beside a signal is "the spec's reading" (R153). -/
def Obligations.ResponseIsTakenIn : Prop :=
  ∀ (s : State) (n : Word) (r : SrcResponse) (rest : List SrcResponse),
    s.fault = none → nextTurn s = some .source → s.script = r :: rest →
    s.fsm = .waitRead → s.req = some n → r.data.length ≤ n.toNat →
    step s = .next { s with
      buf := s.buf ++ r.data,
      pending := (match r.sig with | .ok => s.pending | .eof => .eof | .err _ => .err),
      srcErr := (match r.sig with | .ok => s.srcErr | .eof => s.srcErr | .err e => some e),
      req := none, fsm := .eval, script := rest, turns := s.turns.tail }

/-- R211 (with R143, R205): a response with more bytes than requested, and a response nobody asked for, are faults that change no
register. -/
def Obligations.SourceContractBreachesFault : Prop :=
  ∀ (s : State) (r : SrcResponse) (rest : List SrcResponse),
    s.fault = none → nextTurn s = some .source → s.script = r :: rest →
    (∀ n : Word, s.req = some n → n.toNat < r.data.length →
      ∃ t, step s = .next t ∧ t.fault = some .sourceOverrun ∧ SameRegisters s t ∧ t.sent = s.sent) ∧
    (s.req = none →
      ∃ t, step s = .next t ∧ t.fault = some .sourceUnsolicited ∧ SameRegisters s t ∧ t.sent = s.sent)

/-- R154 (with R31): after a response of no bytes and no signal the scanner asks again, and nothing else has changed. The two moves are
the source's and the scanner's. -/
def Obligations.ZeroByteResponseIsAskedAgain : Prop :=
  ∀ (s : State) (rest : List SrcResponse) (more : List Turn),
    Inv s → s.fault = none → s.fsm = .waitRead → s.script = ⟨[], .ok⟩ :: rest →
    s.turns = .source :: .scanner :: more →
    runSteps 2 s = .next { s with script := rest, turns := more }

/-- R152, R240, R145: only the byte source's response or a reset moves a waiting scanner: nothing else gives the SCAN a result,
and where no agent is to move the wait goes on. That no agent is to move (`turns` is empty and the source has nothing more to give, though
the host may still hold commands), and that the step then leaves the state as it is, are the model's choices (log entry 2). -/
def Obligations.WaitEndsOnlyByAResponse : Prop :=
  (∀ s t : State, s.fsm = .waitRead → step s = .next t → nextTurn s ≠ some .source →
    (∀ src, nextTurn s ≠ some (.reset src)) →
    SameRegisters s t ∧ (t.sent = s.sent ∨ ∃ r, t.sent = s.sent ++ [r] ∧ ∀ b, r ≠ .scan b)) ∧
  (∀ s : State, s.fault = none → s.fsm = .waitRead → nextTurn s = none → step s = .next s)

/-- R155: DONE is absorbing until reset, and every later SCAN responds false. -/
def Obligations.DoneIsAbsorbing : Prop :=
  (∀ s t : State, Inv s → s.fsm = .done → step s = .next t → (∀ src, nextTurn s ≠ some (.reset src)) →
    t.fsm = .done ∧ t.err = s.err ∧ t.srcErr = s.srcErr ∧ t.buf = s.buf ∧ t.pending = s.pending ∧
    t.frameValid = s.frameValid) ∧
  (∀ s : State, s.fault = none → s.fsm = .done →
    exec .scan s = .next { s with sent := s.sent ++ [.scan false] })

/-- R145: every transition of the scanner is one of the table's, and a move of the scanner leaves EVAL. -/
def Obligations.ScannerTransitions : Prop :=
  ∀ s t : State, Inv s → step s = .next t →
    (t.fsm = s.fsm ∨
     (∃ src, nextTurn s = some (.reset src) ∧ t.fsm = .idle) ∨
     (nextTurn s = some .host ∧ s.cmds.head? = some [0x10#8] ∧ s.fsm = .idle ∧ t.fsm = .eval) ∨
     (nextTurn s = some .scanner ∧ s.fsm = .eval ∧ t.fsm = .idle ∧ t.sent = s.sent ++ [.scan true] ∧
        ∃ h n, hdrDecode s.buf = .ok h n ∧ h + n.toNat ≤ s.limit.toNat ∧ h + n.toNat ≤ s.buf.length) ∨
     (nextTurn s = some .scanner ∧ s.fsm = .eval ∧ t.fsm = .done ∧ t.sent = s.sent ++ [.scan false] ∧
        (LimitCase s.limit.toNat s.buf ∨ hdrDecode s.buf = .tooLarge ∨
          (Undecided s.limit.toNat s.buf ∧ s.pending ≠ .none))) ∨
     (nextTurn s = some .scanner ∧ s.fsm = .eval ∧ t.fsm = .waitRead ∧ t.sent = s.sent ∧
        Undecided s.limit.toNat s.buf ∧ s.pending = .none) ∨
     (nextTurn s = some .source ∧ s.fsm = .waitRead ∧ t.fsm = .eval ∧
        ∃ n r rest, s.req = some n ∧ s.script = r :: rest ∧ r.data.length ≤ n.toNat)) ∧
    (nextTurn s = some .scanner → s.fsm = .eval → t.fsm ≠ .eval)

/-- R42, R32, R26, R163, R29: the state invariants hold after reset. -/
def Obligations.ResetStateMeetsInvariants : Prop := Inv State.reset

/-- R42, R32, R26, R163, R29: every step keeps the state invariants, whoever moves. -/
def Obligations.EveryStepKeepsInvariants : Prop :=
  ∀ s t : State, Inv s → step s = .next t → Inv t

/-- R164, R28: `frame_valid` is set only by an emission, of a frame that fits the limit, and `frame` is then its payload. -/
def Obligations.EmittedFramesFitTheLimit : Prop :=
  ∀ s t : State, step s = .next t → s.frameValid = false → t.frameValid = true →
    ∃ h n, hdrDecode s.buf = .ok h n ∧ h + n.toNat ≤ s.limit.toNat ∧
      t.frame.length = n.toNat ∧ s.buf = s.buf.take h ++ t.frame ++ t.buf

/-- R61, R51, R150: the buffer with the bytes still in the stream is always the unconsumed suffix of the stream: a step that is no
reset and no fault takes nothing from it but, from its start, a header and the payload whose length that header gives, which is then
`frame`. -/
def Obligations.StreamIsConserved : Prop :=
  ∀ s t : State, step s = .next t → t.fault = none → (∀ src, nextTurn s ≠ some (.reset src)) →
    t.buf ++ streamBytes t.script = s.buf ++ streamBytes s.script ∨
    (t.sent = s.sent ++ [.scan true] ∧ ∃ h n, hdrDecode s.buf = .ok h n ∧ t.frame.length = n.toNat ∧
      s.buf ++ streamBytes s.script = s.buf.take h ++ t.frame ++ (t.buf ++ streamBytes t.script))

/-- R160, R162, R159: one SCAN in progress on a faithful source ends, within two moves for each response and one more, with exactly
what the reference semantics says of the unread stream, however the stream is cut into responses. The moves come in the order of log
entry 2. -/
def Obligations.ScanMatchesReference : Prop :=
  ∀ (s : State) (sig : Signal), s.fault = none → s.fsm = .eval → s.turns = [] → Awaits sig s →
    ∃ k t, k ≤ 2 * s.script.length + 1 ∧ runSteps k s = .next t ∧ t.fault = none ∧ t.turns = [] ∧ t.cmds = s.cmds ∧
      t.limit = s.limit ∧ t.chunk = s.chunk ∧
      match scanOne (s.buf ++ streamBytes s.script) sig s.limit.toNat with
      | .frame payload rest =>
        t.fsm = .idle ∧ t.frameValid = true ∧ t.frame = payload ∧ t.sent = s.sent ++ [.scan true] ∧
        t.buf ++ streamBytes t.script = rest ∧ Awaits sig t
      | .stop code value =>
        t.fsm = .done ∧ t.err = code ∧ t.sent = s.sent ++ [.scan false] ∧
        (code = .sourceError → t.srcErr = value)

/-- R162, for a source that sends no empty response: a SCAN in progress responds after at most `LIMIT + 1 - len(buf)` responses that
carry bytes (within R162's bound), each one move of the source and one of the scanner, and one more move of the scanner. The moves come
in the order of log entry 2. -/
def Obligations.ScanRespondsWithinTheLimit : Prop :=
  ∀ s : State, s.fault = none → s.fsm = .eval → s.turns = [] →
    (∀ r ∈ s.script, 1 ≤ r.data.length ∧ r.data.length ≤ s.chunk.toNat) →
    s.limit.toNat < s.buf.length + s.script.length →
    ∃ k t, k ≤ 2 * (s.limit.toNat + 1 - s.buf.length) + 1 ∧ runSteps k s = .next t ∧ t.fault = none ∧
      (t.fsm = .idle ∨ t.fsm = .done) ∧ ∃ ok, t.sent = s.sent ++ [.scan ok]

/-- R160: a host that issues SCAN, reads the frame after each true response and stops at the first false one gets exactly the frames
and the cause of `ScanSpec`, for every chunking of the stream and every CHUNK. The moves come in the order of log entry 2. -/
def Obligations.ScanSequenceMatchesScanSpec : Prop :=
  ∀ (s : State) (sig : Signal) (frames : List Bytes) (code : ErrCode) (value : Option SrcErr),
    s.fault = none → s.fsm = .idle → s.turns = [] → Awaits sig s →
    scanSpec ((s.buf ++ streamBytes s.script).length + 1) (s.buf ++ streamBytes s.script) sig s.limit.toNat =
      some (frames, code, value) →
    s.cmds = (frames.flatMap fun _ => [[0x10#8], [0x11#8]]) ++ [[0x10#8]] →
    ∃ k t, runSteps k s = .next t ∧ EndsWell t ∧ t.fsm = .done ∧ t.err = code ∧
      (code = .sourceError → t.srcErr = value) ∧
      t.sent = s.sent ++ (frames.flatMap fun f => [.scan true, .frameRd f]) ++ [.scan false]

/-- R161 (for any number of payloads): a stream of encoded payloads that ends cleanly is scanned into exactly those payloads, in
order, whatever the chunking. The moves come in the order of log entry 2. -/
def Obligations.EncodedPayloadsAreReplayed : Prop :=
  ∀ (s : State) (payloads : List Bytes),
    s.fault = none → s.fsm = .idle → s.turns = [] → Awaits .eof s →
    s.buf ++ streamBytes s.script = payloads.flatMap frmEncode →
    (∀ p ∈ payloads, p.length ≤ Config.maxLen ∧ (frmEncode p).length ≤ s.limit.toNat) →
    s.cmds = (payloads.flatMap fun _ => [[0x10#8], [0x11#8]]) ++ [[0x10#8]] →
    ∃ k t, runSteps k s = .next t ∧ EndsWell t ∧ t.fsm = .done ∧ t.err = .none ∧
      t.sent = s.sent ++ (payloads.flatMap fun p => [.scan true, .frameRd p]) ++ [.scan false]

/- ## Configuration, registers and flags -/

/-- R180: CFG_LIMIT writes LIMIT, any value, before the first SCAN; later it faults, busy tested first. -/
def Obligations.CfgLimitWritesLimit : Prop :=
  ∀ (s : State) (v : Word), s.fault = none →
    (busy s = false → s.started = false →
      exec (.cfgLimit v) s = .next { s with limit := v, sent := s.sent ++ [.cfgLimit] }) ∧
    (busy s = true → exec (.cfgLimit v) s = .next { s with fault := some .busyViolation }) ∧
    (busy s = false → s.started = true →
      exec (.cfgLimit v) s = .next { s with fault := some .configAfterStart })

/-- R181: CFG_CHUNK writes CHUNK, any value but 0, before the first SCAN; the faults in the order R212 gives. -/
def Obligations.CfgChunkWritesChunk : Prop :=
  ∀ (s : State) (v : Word), s.fault = none →
    (busy s = false → s.started = false → v ≠ 0 →
      exec (.cfgChunk v) s = .next { s with chunk := v, sent := s.sent ++ [.cfgChunk] }) ∧
    (busy s = true → exec (.cfgChunk v) s = .next { s with fault := some .busyViolation }) ∧
    (busy s = false → s.started = true →
      exec (.cfgChunk v) s = .next { s with fault := some .configAfterStart }) ∧
    (busy s = false → s.started = false → v = 0 →
      exec (.cfgChunk v) s = .next { s with fault := some .configInvalid })

/-- R25, R27, R235: once a SCAN has been accepted, no step but a reset changes LIMIT or CHUNK. -/
def Obligations.ConfigurationLocksAtTheFirstScan : Prop :=
  ∀ s t : State, s.started = true → step s = .next t → (∀ src, nextTurn s ≠ some (.reset src)) →
    t.limit = s.limit ∧ t.chunk = s.chunk ∧ t.started = true

/-- R182, R36, R37, R38, R29: REG_RD responds each register in every scanner state and changes nothing. A length that does not fit 64
bits reads as a free value (log entry 8). -/
def Obligations.RegRdRespondsTheRegister : Prop :=
  ∀ s : State, s.fault = none →
    exec (.regRd 0x00#8) s = .next { s with sent := s.sent ++ [.regRd (statusWord s)] } ∧
    exec (.regRd 0x01#8) s = .next { s with sent := s.sent ++ [.regRd
      (match s.err with
       | .none => 0 | .headerInsufficient => 1 | .insufficient => 2 | .headerTooLarge => 3
       | .limitExceeded => 4 | .sourceError => 5 | .endMidFrame => 6)] } ∧
    exec (.regRd 0x02#8) s = .next { s with sent := s.sent ++ [.regRd s.limit] } ∧
    exec (.regRd 0x03#8) s = .next { s with sent := s.sent ++ [.regRd s.chunk] } ∧
    (∃ v : Word, exec (.regRd 0x04#8) s = .next { s with sent := s.sent ++ [.regRd v] } ∧
      (s.buf.length < 2 ^ 64 → v.toNat = s.buf.length)) ∧
    (s.frameValid = true →
      ∃ v : Word, exec (.regRd 0x05#8) s = .next { s with sent := s.sent ++ [.regRd v] } ∧
        (s.frame.length < 2 ^ 64 → v.toNat = s.frame.length)) ∧
    (s.frameValid = false → exec (.regRd 0x05#8) s = .next { s with fault := some .frameInvalid }) ∧
    (∀ n : Byte, 5 < n.toNat → exec (.regRd n) s = .next { s with fault := some .illegalCommand })

/-- R35 (with R23, R31, R34): REG_RD 0x00 responds STATUS; its fields, and their values after reset. -/
def Obligations.StatusFields : Prop :=
  statusWord State.reset = 0 ∧
  ∀ s : State,
    (s.fault = none → exec (.regRd 0x00#8) s = .next { s with sent := s.sent ++ [.regRd (statusWord s)] }) ∧
    ((statusWord s).getLsbD 0 = true ↔ s.fsm = .eval ∨ s.fsm = .waitRead) ∧
    (statusWord s).getLsbD 1 = s.started ∧
    ((statusWord s).getLsbD 2 = true ↔ s.fsm = .done) ∧
    (statusWord s).getLsbD 3 = s.frameValid ∧
    (statusWord s).extractLsb' 4 2 = (match s.pending with | .none => 0 | .eof => 1 | .err => 2) ∧
    (statusWord s).extractLsb' 6 2 =
      (match s.fsm with | .idle => 0 | .eval => 1 | .waitRead => 2 | .done => 3) ∧
    (statusWord s).extractLsb' 8 56 = 0

/-- R183, R210: FRAME_RD responds the frame while it is valid, and does not consume it. -/
def Obligations.FrameRdRespondsTheFrame : Prop :=
  ∀ s : State, s.fault = none →
    (busy s = false → s.frameValid = true →
      exec .frameRd s = .next { s with sent := s.sent ++ [.frameRd s.frame] }) ∧
    (busy s = true → exec .frameRd s = .next { s with fault := some .busyViolation }) ∧
    (busy s = false → s.frameValid = false → exec .frameRd s = .next { s with fault := some .frameInvalid })

/-- R184: SRCERR_RD responds the source's error value when it is the cause of the end, and none otherwise. -/
def Obligations.SrcerrRdRespondsTheCause : Prop :=
  ∀ s : State, s.fault = none →
    (busy s = false →
      exec .srcerrRd s = .next { s with sent := s.sent ++
        [.srcerrRd (if s.err = .sourceError then s.srcErr else none)] }) ∧
    (busy s = true → exec .srcerrRd s = .next { s with fault := some .busyViolation })

/-- R209: which commands are legal while a SCAN is in progress: these five fault, and the others do not raise BUSY_VIOLATION. -/
def Obligations.BusyViolations : Prop :=
  ∀ (s : State) (i : Instr), s.fault = none → busy s = true →
    ((i = .scan ∨ i = .frameRd ∨ i = .srcerrRd ∨ (∃ v, i = .cfgLimit v) ∨ (∃ v, i = .cfgChunk v)) →
      exec i s = .next { s with fault := some .busyViolation }) ∧
    (((∃ v, i = .hdrEnc v) ∨ (∃ d, i = .hdrDec d) ∨ (∃ p, i = .frmEnc p) ∨ (∃ d, i = .frmDec d) ∨ (∃ n, i = .regRd n)) →
      ∃ t, exec i s = .next t ∧ t.fault ≠ some .busyViolation)

/-- R213, R60: whatever the host does while a SCAN is in progress, it writes no register of the scanner. -/
def Obligations.HostStepsDuringAScanWriteNoRegister : Prop :=
  ∀ s t : State, busy s = true → nextTurn s = some .host → step s = .next t → SameRegisters s t

/-- R58: REG_RD, FRAME_RD and SRCERR_RD write no register, and repeated they answer the same. -/
def Obligations.RegisterReadsHaveNoSideEffect : Prop :=
  ∀ (i : Instr) (s t : State), ((∃ n, i = .regRd n) ∨ i = .frameRd ∨ i = .srcerrRd) →
    exec i s = .next t →
    SameRegisters s t ∧
    (t.fault = none → ∃ r, t.sent = s.sent ++ [r] ∧ exec i t = .next { t with sent := t.sent ++ [r] })

/-- R39: each flag is set and cleared only by the events R39 names, resets apart. -/
def Obligations.FlagsChangeOnlyAsNamed : Prop :=
  ∀ s t : State, Inv s → step s = .next t → (∀ src, nextTurn s ≠ some (.reset src)) →
    (busy s = false → busy t = true →
      nextTurn s = some .host ∧ s.cmds.head? = some [0x10#8] ∧ s.fsm = .idle) ∧
    (busy s = true → busy t = false → nextTurn s = some .scanner ∧ ∃ ok, t.sent = s.sent ++ [.scan ok]) ∧
    (s.started = true → t.started = true) ∧
    (s.started = false → t.started = true →
      nextTurn s = some .host ∧ s.cmds.head? = some [0x10#8] ∧ s.fsm = .idle) ∧
    (s.fsm = .done → t.fsm = .done) ∧
    (s.fsm ≠ .done → t.fsm = .done → nextTurn s = some .scanner ∧ t.sent = s.sent ++ [.scan false]) ∧
    (s.frameValid = false → t.frameValid = true → nextTurn s = some .scanner ∧ t.sent = s.sent ++ [.scan true]) ∧
    (s.frameValid = true → t.frameValid = false →
      nextTurn s = some .host ∧ s.cmds.head? = some [0x10#8] ∧ s.fsm = .idle) ∧
    (s.pending ≠ .none → t.pending = s.pending) ∧
    (s.pending = .none → t.pending ≠ .none →
      nextTurn s = some .source ∧ ∃ r rest, s.script = r :: rest ∧ r.sig ≠ .ok)

/- ## Faults and reset -/

/-- R205, R215: a step that raises a fault changes no register but `fault` and sends no response; from then on nothing moves but a
reset, and no command is accepted. That "no step" is the outcome `halted` is the model's (log entry 4). -/
def Obligations.FaultsAreSticky : Prop :=
  (∀ s t : State, s.fault = none → step s = .next t → t.fault ≠ none →
    SameRegisters s t ∧ t.sent = s.sent) ∧
  (∀ (s : State) (c : FaultCode), s.fault = some c → (∀ src, nextTurn s ≠ some (.reset src)) →
    step s = .fault (.halted c)) ∧
  (∀ (s : State) (c : FaultCode) (i : Instr), s.fault = some c → exec i s = .fault (.halted c))

/-- R231: no step but a reset clears `err`, `started`, `pending` or `fault`. -/
def Obligations.OnlyResetClears : Prop :=
  ∀ s t : State, Inv s → step s = .next t → (∀ src, nextTurn s ≠ some (.reset src)) →
    s.fault = none ∧ (s.err ≠ .none → t.err = s.err) ∧ (s.started = true → t.started = true) ∧
    (s.pending ≠ .none → t.pending = s.pending)

/-- R230, R41: a reset puts every register at its reset value from any state, a faulted one too, abandons the outstanding request and
binds the new byte source. The values but for LIMIT and CHUNK are "the spec's own reading" (R41); that the host's own commands and
record stay is the model's (log entry 13). -/
def Obligations.ResetSetsEveryRegister : Prop :=
  ∀ (s : State) (src : List SrcResponse), nextTurn s = some (.reset src) →
    step s = .next {
      fsm := .idle, buf := [], limit := Config.limitReset, chunk := Config.chunkReset, started := false,
      frameValid := false, frame := [], err := .none, srcErr := none, pending := .none, req := none, fault := none,
      cmds := s.cmds, script := src, turns := s.turns.tail, sent := s.sent }

/-- R41, R11: the values after reset. The values but for LIMIT and CHUNK are "the spec's own reading" (R41). -/
def Obligations.ResetValues : Prop :=
  State.reset.fsm = .idle ∧ State.reset.buf = [] ∧ State.reset.limit = Config.limitReset ∧
  State.reset.chunk = Config.chunkReset ∧ 1 ≤ State.reset.chunk.toNat ∧ State.reset.started = false ∧
  State.reset.frameValid = false ∧ State.reset.frame = [] ∧ State.reset.err = .none ∧
  State.reset.srcErr = none ∧ State.reset.pending = .none ∧ State.reset.req = none ∧
  State.reset.fault = none ∧ statusWord State.reset = 0 ∧ errWord State.reset = 0

/- ## The step -/

/-- R60, R80, R212: when the host moves and its next command decodes to `i`, the step is `exec` of `i` after the command is taken
from the host (and the turn spent). -/
def Obligations.StepRunsTheDecodedCommand : Prop :=
  ∀ (s : State) (c : Bytes) (rest : List Bytes) (i : Instr), s.fault = none → nextTurn s = some .host →
    s.cmds = c :: rest → decode c = .ok i →
    step s = exec i { s with cmds := rest, turns := s.turns.tail }
end

