-- ==== Sys2Proof/Laws/Operands.lean ====
section
/-! SUPPORT. The sum of a u64 operand (30_encoding.md R81), by one induction. -/

open Finset

namespace Sys2Proof.Machine

/-- The bytes of a `u64` operand have disjoint places, so that their sum does not wrap. -/
theorem u64Sum_toNat {k : Nat} {s : Bytes} (h : k + s.length ≤ 8) :
    (u64Sum k s).toNat = ∑ i ∈ range s.length, (s.getD i 0).toNat * 2 ^ (8 * (k + i)) ∧
    (u64Sum k s).toNat ≤ 2 ^ (8 * (k + s.length)) - 2 ^ (8 * k) := by
  induction s generalizing k with
  | nil => simp [u64Sum]
  | cons b rest ih =>
    obtain ⟨h1, h2⟩ := ih (k := k + 1) (by simp at h; omega)
    have hb : b.toNat < 256 := b.isLt
    have hp : 2 ^ (8 * (k + 1)) = 256 * 2 ^ (8 * k) := by rw [mul_add, pow_add]; norm_num [mul_comm]
    have hmul : b.toNat * 2 ^ (8 * k) ≤ 255 * 2 ^ (8 * k) := Nat.mul_le_mul_right _ (by omega)
    have hle : 2 ^ (8 * (k + 1)) ≤ 2 ^ (8 * (k + 1 + rest.length)) :=
      Nat.pow_le_pow_right (by norm_num) (by omega)
    have hlen : k + (b :: rest).length = k + 1 + rest.length := by simp; omega
    rw [hlen] at h ⊢
    have h64 : 2 ^ (8 * (k + 1 + rest.length)) ≤ 2 ^ 64 := Nat.pow_le_pow_right (by norm_num) (by omega)
    have hpos : 0 < 2 ^ (8 * k) := by positivity
    have e : (u64Sum k (b :: rest)).toNat = b.toNat * 2 ^ (8 * k) + (u64Sum (k + 1) rest).toNat := by
      simp only [u64Sum]
      rw [BitVec.toNat_add, BitVec.toNat_shiftLeft, BitVec.toNat_setWidth,
        Nat.mod_eq_of_lt (by omega : b.toNat < 2 ^ 64), Nat.shiftLeft_eq,
        Nat.mod_eq_of_lt (by omega : b.toNat * 2 ^ (8 * k) < 2 ^ 64), Nat.mod_eq_of_lt (by omega)]
    refine ⟨?_, by omega⟩
    rw [e, h1, List.length_cons, sum_range_succ']
    simp only [List.getD_cons_succ, List.getD_cons_zero, Nat.add_zero]
    have : ∀ i, 8 * (k + 1 + i) = 8 * (k + (i + 1)) := by intro i; ring
    simp only [this]
    ring

/-- The bytes of a number below `2^(8m)` add up to it. -/
theorem sum_bytes (v m : Nat) : ∑ i ∈ range m, v / 2 ^ (8 * i) % 256 * 2 ^ (8 * i) = v % 2 ^ (8 * m) := by
  induction m with
  | zero => simp [Nat.mod_one]
  | succ m ih =>
    have h2 : 2 ^ (8 * (m + 1)) = 2 ^ (8 * m) * 256 := by rw [mul_add, pow_add]; norm_num
    rw [sum_range_succ, ih, h2, Nat.mod_mul]
    ring

/-- Byte `i` of the bytes of a `u64` operand. -/
theorem u64Bytes_getD (v : Word) {i : Nat} (h : i < 8) :
    ((u64Bytes v).getD i 0).toNat = v.toNat / 2 ^ (8 * i) % 256 := by
  have : i = 0 ∨ i = 1 ∨ i = 2 ∨ i = 3 ∨ i = 4 ∨ i = 5 ∨ i = 6 ∨ i = 7 := by omega
  rcases this with rfl | rfl | rfl | rfl | rfl | rfl | rfl | rfl <;>
    simp [u64Bytes, BitVec.extractLsb'_toNat, Nat.shiftRight_eq_div_pow]

end Sys2Proof.Machine
end

