-- ==== Sys2Proof/Laws/State.lean ====
section
/-! SUPPORT. One lemma per field per update of State, so that no later proof unfolds a record update. -/

namespace Sys2Proof.Machine

@[simp] theorem respond_fsm (r : Response) (s : State) : (respond r s).fsm = s.fsm := rfl
@[simp] theorem respond_buf (r : Response) (s : State) : (respond r s).buf = s.buf := rfl
@[simp] theorem respond_limit (r : Response) (s : State) : (respond r s).limit = s.limit := rfl
@[simp] theorem respond_chunk (r : Response) (s : State) : (respond r s).chunk = s.chunk := rfl
@[simp] theorem respond_started (r : Response) (s : State) : (respond r s).started = s.started := rfl
@[simp] theorem respond_frameValid (r : Response) (s : State) : (respond r s).frameValid = s.frameValid := rfl
@[simp] theorem respond_frame (r : Response) (s : State) : (respond r s).frame = s.frame := rfl
@[simp] theorem respond_err (r : Response) (s : State) : (respond r s).err = s.err := rfl
@[simp] theorem respond_srcErr (r : Response) (s : State) : (respond r s).srcErr = s.srcErr := rfl
@[simp] theorem respond_pending (r : Response) (s : State) : (respond r s).pending = s.pending := rfl
@[simp] theorem respond_req (r : Response) (s : State) : (respond r s).req = s.req := rfl
@[simp] theorem respond_fault (r : Response) (s : State) : (respond r s).fault = s.fault := rfl
@[simp] theorem respond_cmds (r : Response) (s : State) : (respond r s).cmds = s.cmds := rfl
@[simp] theorem respond_script (r : Response) (s : State) : (respond r s).script = s.script := rfl
@[simp] theorem respond_turns (r : Response) (s : State) : (respond r s).turns = s.turns := rfl
@[simp] theorem respond_sent (r : Response) (s : State) : (respond r s).sent = s.sent ++ [r] := rfl

@[simp] theorem raiseFault_fsm (c : FaultCode) (s : State) : (raiseFault c s).fsm = s.fsm := rfl
@[simp] theorem raiseFault_buf (c : FaultCode) (s : State) : (raiseFault c s).buf = s.buf := rfl
@[simp] theorem raiseFault_limit (c : FaultCode) (s : State) : (raiseFault c s).limit = s.limit := rfl
@[simp] theorem raiseFault_chunk (c : FaultCode) (s : State) : (raiseFault c s).chunk = s.chunk := rfl
@[simp] theorem raiseFault_started (c : FaultCode) (s : State) : (raiseFault c s).started = s.started := rfl
@[simp] theorem raiseFault_frameValid (c : FaultCode) (s : State) : (raiseFault c s).frameValid = s.frameValid := rfl
@[simp] theorem raiseFault_frame (c : FaultCode) (s : State) : (raiseFault c s).frame = s.frame := rfl
@[simp] theorem raiseFault_err (c : FaultCode) (s : State) : (raiseFault c s).err = s.err := rfl
@[simp] theorem raiseFault_srcErr (c : FaultCode) (s : State) : (raiseFault c s).srcErr = s.srcErr := rfl
@[simp] theorem raiseFault_pending (c : FaultCode) (s : State) : (raiseFault c s).pending = s.pending := rfl
@[simp] theorem raiseFault_req (c : FaultCode) (s : State) : (raiseFault c s).req = s.req := rfl
@[simp] theorem raiseFault_fault (c : FaultCode) (s : State) : (raiseFault c s).fault = some c := rfl
@[simp] theorem raiseFault_cmds (c : FaultCode) (s : State) : (raiseFault c s).cmds = s.cmds := rfl
@[simp] theorem raiseFault_script (c : FaultCode) (s : State) : (raiseFault c s).script = s.script := rfl
@[simp] theorem raiseFault_turns (c : FaultCode) (s : State) : (raiseFault c s).turns = s.turns := rfl
@[simp] theorem raiseFault_sent (c : FaultCode) (s : State) : (raiseFault c s).sent = s.sent := rfl

@[simp] theorem bufAppend_fsm (d : Bytes) (s : State) : (bufAppend d s).fsm = s.fsm := rfl
@[simp] theorem bufAppend_buf (d : Bytes) (s : State) : (bufAppend d s).buf = s.buf ++ d := rfl
@[simp] theorem bufAppend_limit (d : Bytes) (s : State) : (bufAppend d s).limit = s.limit := rfl
@[simp] theorem bufAppend_chunk (d : Bytes) (s : State) : (bufAppend d s).chunk = s.chunk := rfl
@[simp] theorem bufAppend_started (d : Bytes) (s : State) : (bufAppend d s).started = s.started := rfl
@[simp] theorem bufAppend_frameValid (d : Bytes) (s : State) : (bufAppend d s).frameValid = s.frameValid := rfl
@[simp] theorem bufAppend_frame (d : Bytes) (s : State) : (bufAppend d s).frame = s.frame := rfl
@[simp] theorem bufAppend_err (d : Bytes) (s : State) : (bufAppend d s).err = s.err := rfl
@[simp] theorem bufAppend_srcErr (d : Bytes) (s : State) : (bufAppend d s).srcErr = s.srcErr := rfl
@[simp] theorem bufAppend_pending (d : Bytes) (s : State) : (bufAppend d s).pending = s.pending := rfl
@[simp] theorem bufAppend_req (d : Bytes) (s : State) : (bufAppend d s).req = s.req := rfl
@[simp] theorem bufAppend_fault (d : Bytes) (s : State) : (bufAppend d s).fault = s.fault := rfl
@[simp] theorem bufAppend_cmds (d : Bytes) (s : State) : (bufAppend d s).cmds = s.cmds := rfl
@[simp] theorem bufAppend_script (d : Bytes) (s : State) : (bufAppend d s).script = s.script := rfl
@[simp] theorem bufAppend_turns (d : Bytes) (s : State) : (bufAppend d s).turns = s.turns := rfl
@[simp] theorem bufAppend_sent (d : Bytes) (s : State) : (bufAppend d s).sent = s.sent := rfl

@[simp] theorem bufDrop_fsm (k : Nat) (s : State) : (bufDrop k s).fsm = s.fsm := rfl
@[simp] theorem bufDrop_buf (k : Nat) (s : State) : (bufDrop k s).buf = s.buf.drop k := rfl
@[simp] theorem bufDrop_limit (k : Nat) (s : State) : (bufDrop k s).limit = s.limit := rfl
@[simp] theorem bufDrop_chunk (k : Nat) (s : State) : (bufDrop k s).chunk = s.chunk := rfl
@[simp] theorem bufDrop_started (k : Nat) (s : State) : (bufDrop k s).started = s.started := rfl
@[simp] theorem bufDrop_frameValid (k : Nat) (s : State) : (bufDrop k s).frameValid = s.frameValid := rfl
@[simp] theorem bufDrop_frame (k : Nat) (s : State) : (bufDrop k s).frame = s.frame := rfl
@[simp] theorem bufDrop_err (k : Nat) (s : State) : (bufDrop k s).err = s.err := rfl
@[simp] theorem bufDrop_srcErr (k : Nat) (s : State) : (bufDrop k s).srcErr = s.srcErr := rfl
@[simp] theorem bufDrop_pending (k : Nat) (s : State) : (bufDrop k s).pending = s.pending := rfl
@[simp] theorem bufDrop_req (k : Nat) (s : State) : (bufDrop k s).req = s.req := rfl
@[simp] theorem bufDrop_fault (k : Nat) (s : State) : (bufDrop k s).fault = s.fault := rfl
@[simp] theorem bufDrop_cmds (k : Nat) (s : State) : (bufDrop k s).cmds = s.cmds := rfl
@[simp] theorem bufDrop_script (k : Nat) (s : State) : (bufDrop k s).script = s.script := rfl
@[simp] theorem bufDrop_turns (k : Nat) (s : State) : (bufDrop k s).turns = s.turns := rfl
@[simp] theorem bufDrop_sent (k : Nat) (s : State) : (bufDrop k s).sent = s.sent := rfl

@[simp] theorem srcRequest_fsm (n : Word) (s : State) : (srcRequest n s).fsm = .waitRead := rfl
@[simp] theorem srcRequest_buf (n : Word) (s : State) : (srcRequest n s).buf = s.buf := rfl
@[simp] theorem srcRequest_limit (n : Word) (s : State) : (srcRequest n s).limit = s.limit := rfl
@[simp] theorem srcRequest_chunk (n : Word) (s : State) : (srcRequest n s).chunk = s.chunk := rfl
@[simp] theorem srcRequest_started (n : Word) (s : State) : (srcRequest n s).started = s.started := rfl
@[simp] theorem srcRequest_frameValid (n : Word) (s : State) : (srcRequest n s).frameValid = s.frameValid := rfl
@[simp] theorem srcRequest_frame (n : Word) (s : State) : (srcRequest n s).frame = s.frame := rfl
@[simp] theorem srcRequest_err (n : Word) (s : State) : (srcRequest n s).err = s.err := rfl
@[simp] theorem srcRequest_srcErr (n : Word) (s : State) : (srcRequest n s).srcErr = s.srcErr := rfl
@[simp] theorem srcRequest_pending (n : Word) (s : State) : (srcRequest n s).pending = s.pending := rfl
@[simp] theorem srcRequest_req (n : Word) (s : State) : (srcRequest n s).req = some n := rfl
@[simp] theorem srcRequest_fault (n : Word) (s : State) : (srcRequest n s).fault = s.fault := rfl
@[simp] theorem srcRequest_cmds (n : Word) (s : State) : (srcRequest n s).cmds = s.cmds := rfl
@[simp] theorem srcRequest_script (n : Word) (s : State) : (srcRequest n s).script = s.script := rfl
@[simp] theorem srcRequest_turns (n : Word) (s : State) : (srcRequest n s).turns = s.turns := rfl
@[simp] theorem srcRequest_sent (n : Word) (s : State) : (srcRequest n s).sent = s.sent := rfl

@[simp] theorem endWait_fsm (s : State) : (endWait s).fsm = .eval := rfl
@[simp] theorem endWait_buf (s : State) : (endWait s).buf = s.buf := rfl
@[simp] theorem endWait_limit (s : State) : (endWait s).limit = s.limit := rfl
@[simp] theorem endWait_chunk (s : State) : (endWait s).chunk = s.chunk := rfl
@[simp] theorem endWait_started (s : State) : (endWait s).started = s.started := rfl
@[simp] theorem endWait_frameValid (s : State) : (endWait s).frameValid = s.frameValid := rfl
@[simp] theorem endWait_frame (s : State) : (endWait s).frame = s.frame := rfl
@[simp] theorem endWait_err (s : State) : (endWait s).err = s.err := rfl
@[simp] theorem endWait_srcErr (s : State) : (endWait s).srcErr = s.srcErr := rfl
@[simp] theorem endWait_pending (s : State) : (endWait s).pending = s.pending := rfl
@[simp] theorem endWait_req (s : State) : (endWait s).req = none := rfl
@[simp] theorem endWait_fault (s : State) : (endWait s).fault = s.fault := rfl
@[simp] theorem endWait_cmds (s : State) : (endWait s).cmds = s.cmds := rfl
@[simp] theorem endWait_script (s : State) : (endWait s).script = s.script := rfl
@[simp] theorem endWait_turns (s : State) : (endWait s).turns = s.turns := rfl
@[simp] theorem endWait_sent (s : State) : (endWait s).sent = s.sent := rfl

@[simp] theorem terminate_fsm (c : ErrCode) (s : State) : (terminate c s).fsm = .done := rfl
@[simp] theorem terminate_buf (c : ErrCode) (s : State) : (terminate c s).buf = s.buf := rfl
@[simp] theorem terminate_limit (c : ErrCode) (s : State) : (terminate c s).limit = s.limit := rfl
@[simp] theorem terminate_chunk (c : ErrCode) (s : State) : (terminate c s).chunk = s.chunk := rfl
@[simp] theorem terminate_started (c : ErrCode) (s : State) : (terminate c s).started = s.started := rfl
@[simp] theorem terminate_frameValid (c : ErrCode) (s : State) : (terminate c s).frameValid = false := rfl
@[simp] theorem terminate_frame (c : ErrCode) (s : State) : (terminate c s).frame = s.frame := rfl
@[simp] theorem terminate_err (c : ErrCode) (s : State) : (terminate c s).err = c := rfl
@[simp] theorem terminate_srcErr (c : ErrCode) (s : State) : (terminate c s).srcErr = s.srcErr := rfl
@[simp] theorem terminate_pending (c : ErrCode) (s : State) : (terminate c s).pending = s.pending := rfl
@[simp] theorem terminate_req (c : ErrCode) (s : State) : (terminate c s).req = none := rfl
@[simp] theorem terminate_fault (c : ErrCode) (s : State) : (terminate c s).fault = s.fault := rfl
@[simp] theorem terminate_cmds (c : ErrCode) (s : State) : (terminate c s).cmds = s.cmds := rfl
@[simp] theorem terminate_script (c : ErrCode) (s : State) : (terminate c s).script = s.script := rfl
@[simp] theorem terminate_turns (c : ErrCode) (s : State) : (terminate c s).turns = s.turns := rfl
@[simp] theorem terminate_sent (c : ErrCode) (s : State) : (terminate c s).sent = s.sent ++ [.scan false] := rfl

@[simp] theorem emit_fsm (h n : Nat) (s : State) : (emit h n s).fsm = .idle := rfl
@[simp] theorem emit_buf (h n : Nat) (s : State) : (emit h n s).buf = s.buf.drop (h + n) := rfl
@[simp] theorem emit_limit (h n : Nat) (s : State) : (emit h n s).limit = s.limit := rfl
@[simp] theorem emit_chunk (h n : Nat) (s : State) : (emit h n s).chunk = s.chunk := rfl
@[simp] theorem emit_started (h n : Nat) (s : State) : (emit h n s).started = s.started := rfl
@[simp] theorem emit_frameValid (h n : Nat) (s : State) : (emit h n s).frameValid = true := rfl
@[simp] theorem emit_frame (h n : Nat) (s : State) : (emit h n s).frame = (s.buf.drop h).take n := rfl
@[simp] theorem emit_err (h n : Nat) (s : State) : (emit h n s).err = s.err := rfl
@[simp] theorem emit_srcErr (h n : Nat) (s : State) : (emit h n s).srcErr = s.srcErr := rfl
@[simp] theorem emit_pending (h n : Nat) (s : State) : (emit h n s).pending = s.pending := rfl
@[simp] theorem emit_req (h n : Nat) (s : State) : (emit h n s).req = s.req := rfl
@[simp] theorem emit_fault (h n : Nat) (s : State) : (emit h n s).fault = s.fault := rfl
@[simp] theorem emit_cmds (h n : Nat) (s : State) : (emit h n s).cmds = s.cmds := rfl
@[simp] theorem emit_script (h n : Nat) (s : State) : (emit h n s).script = s.script := rfl
@[simp] theorem emit_turns (h n : Nat) (s : State) : (emit h n s).turns = s.turns := rfl
@[simp] theorem emit_sent (h n : Nat) (s : State) : (emit h n s).sent = s.sent ++ [.scan true] := rfl

@[simp] theorem spendTurn_fsm (s : State) : (spendTurn s).fsm = s.fsm := rfl
@[simp] theorem spendTurn_buf (s : State) : (spendTurn s).buf = s.buf := rfl
@[simp] theorem spendTurn_limit (s : State) : (spendTurn s).limit = s.limit := rfl
@[simp] theorem spendTurn_chunk (s : State) : (spendTurn s).chunk = s.chunk := rfl
@[simp] theorem spendTurn_started (s : State) : (spendTurn s).started = s.started := rfl
@[simp] theorem spendTurn_frameValid (s : State) : (spendTurn s).frameValid = s.frameValid := rfl
@[simp] theorem spendTurn_frame (s : State) : (spendTurn s).frame = s.frame := rfl
@[simp] theorem spendTurn_err (s : State) : (spendTurn s).err = s.err := rfl
@[simp] theorem spendTurn_srcErr (s : State) : (spendTurn s).srcErr = s.srcErr := rfl
@[simp] theorem spendTurn_pending (s : State) : (spendTurn s).pending = s.pending := rfl
@[simp] theorem spendTurn_req (s : State) : (spendTurn s).req = s.req := rfl
@[simp] theorem spendTurn_fault (s : State) : (spendTurn s).fault = s.fault := rfl
@[simp] theorem spendTurn_cmds (s : State) : (spendTurn s).cmds = s.cmds := rfl
@[simp] theorem spendTurn_script (s : State) : (spendTurn s).script = s.script := rfl
@[simp] theorem spendTurn_turns (s : State) : (spendTurn s).turns = s.turns.tail := rfl
@[simp] theorem spendTurn_sent (s : State) : (spendTurn s).sent = s.sent := rfl

@[simp] theorem placeCommand_fsm (b : Bytes) (s : State) : (placeCommand b s).fsm = s.fsm := rfl
@[simp] theorem placeCommand_buf (b : Bytes) (s : State) : (placeCommand b s).buf = s.buf := rfl
@[simp] theorem placeCommand_limit (b : Bytes) (s : State) : (placeCommand b s).limit = s.limit := rfl
@[simp] theorem placeCommand_chunk (b : Bytes) (s : State) : (placeCommand b s).chunk = s.chunk := rfl
@[simp] theorem placeCommand_started (b : Bytes) (s : State) : (placeCommand b s).started = s.started := rfl
@[simp] theorem placeCommand_frameValid (b : Bytes) (s : State) : (placeCommand b s).frameValid = s.frameValid := rfl
@[simp] theorem placeCommand_frame (b : Bytes) (s : State) : (placeCommand b s).frame = s.frame := rfl
@[simp] theorem placeCommand_err (b : Bytes) (s : State) : (placeCommand b s).err = s.err := rfl
@[simp] theorem placeCommand_srcErr (b : Bytes) (s : State) : (placeCommand b s).srcErr = s.srcErr := rfl
@[simp] theorem placeCommand_pending (b : Bytes) (s : State) : (placeCommand b s).pending = s.pending := rfl
@[simp] theorem placeCommand_req (b : Bytes) (s : State) : (placeCommand b s).req = s.req := rfl
@[simp] theorem placeCommand_fault (b : Bytes) (s : State) : (placeCommand b s).fault = s.fault := rfl
@[simp] theorem placeCommand_cmds (b : Bytes) (s : State) : (placeCommand b s).cmds = b :: s.cmds := rfl
@[simp] theorem placeCommand_script (b : Bytes) (s : State) : (placeCommand b s).script = s.script := rfl
@[simp] theorem placeCommand_turns (b : Bytes) (s : State) : (placeCommand b s).turns = .host :: s.turns := rfl
@[simp] theorem placeCommand_sent (b : Bytes) (s : State) : (placeCommand b s).sent = s.sent := rfl

@[simp] theorem resetBlock_fsm (src : List SrcResponse) (s : State) : (resetBlock src s).fsm = .idle := rfl
@[simp] theorem resetBlock_buf (src : List SrcResponse) (s : State) : (resetBlock src s).buf = [] := rfl
@[simp] theorem resetBlock_limit (src : List SrcResponse) (s : State) : (resetBlock src s).limit = Config.limitReset := rfl
@[simp] theorem resetBlock_chunk (src : List SrcResponse) (s : State) : (resetBlock src s).chunk = Config.chunkReset := rfl
@[simp] theorem resetBlock_started (src : List SrcResponse) (s : State) : (resetBlock src s).started = false := rfl
@[simp] theorem resetBlock_frameValid (src : List SrcResponse) (s : State) : (resetBlock src s).frameValid = false := rfl
@[simp] theorem resetBlock_frame (src : List SrcResponse) (s : State) : (resetBlock src s).frame = [] := rfl
@[simp] theorem resetBlock_err (src : List SrcResponse) (s : State) : (resetBlock src s).err = .none := rfl
@[simp] theorem resetBlock_srcErr (src : List SrcResponse) (s : State) : (resetBlock src s).srcErr = none := rfl
@[simp] theorem resetBlock_pending (src : List SrcResponse) (s : State) : (resetBlock src s).pending = .none := rfl
@[simp] theorem resetBlock_req (src : List SrcResponse) (s : State) : (resetBlock src s).req = none := rfl
@[simp] theorem resetBlock_fault (src : List SrcResponse) (s : State) : (resetBlock src s).fault = none := rfl
@[simp] theorem resetBlock_cmds (src : List SrcResponse) (s : State) : (resetBlock src s).cmds = s.cmds := rfl
@[simp] theorem resetBlock_script (src : List SrcResponse) (s : State) : (resetBlock src s).script = src := rfl
@[simp] theorem resetBlock_turns (src : List SrcResponse) (s : State) : (resetBlock src s).turns = s.turns := rfl
@[simp] theorem resetBlock_sent (src : List SrcResponse) (s : State) : (resetBlock src s).sent = s.sent := rfl

@[simp] theorem setLimit_fsm (v : Word) (s : State) : (setLimit v s).fsm = s.fsm := rfl
@[simp] theorem setLimit_buf (v : Word) (s : State) : (setLimit v s).buf = s.buf := rfl
@[simp] theorem setLimit_limit (v : Word) (s : State) : (setLimit v s).limit = v := rfl
@[simp] theorem setLimit_chunk (v : Word) (s : State) : (setLimit v s).chunk = s.chunk := rfl
@[simp] theorem setLimit_started (v : Word) (s : State) : (setLimit v s).started = s.started := rfl
@[simp] theorem setLimit_frameValid (v : Word) (s : State) : (setLimit v s).frameValid = s.frameValid := rfl
@[simp] theorem setLimit_frame (v : Word) (s : State) : (setLimit v s).frame = s.frame := rfl
@[simp] theorem setLimit_err (v : Word) (s : State) : (setLimit v s).err = s.err := rfl
@[simp] theorem setLimit_srcErr (v : Word) (s : State) : (setLimit v s).srcErr = s.srcErr := rfl
@[simp] theorem setLimit_pending (v : Word) (s : State) : (setLimit v s).pending = s.pending := rfl
@[simp] theorem setLimit_req (v : Word) (s : State) : (setLimit v s).req = s.req := rfl
@[simp] theorem setLimit_fault (v : Word) (s : State) : (setLimit v s).fault = s.fault := rfl
@[simp] theorem setLimit_cmds (v : Word) (s : State) : (setLimit v s).cmds = s.cmds := rfl
@[simp] theorem setLimit_script (v : Word) (s : State) : (setLimit v s).script = s.script := rfl
@[simp] theorem setLimit_turns (v : Word) (s : State) : (setLimit v s).turns = s.turns := rfl
@[simp] theorem setLimit_sent (v : Word) (s : State) : (setLimit v s).sent = s.sent := rfl

@[simp] theorem setChunk_fsm (v : Word) (s : State) : (setChunk v s).fsm = s.fsm := rfl
@[simp] theorem setChunk_buf (v : Word) (s : State) : (setChunk v s).buf = s.buf := rfl
@[simp] theorem setChunk_limit (v : Word) (s : State) : (setChunk v s).limit = s.limit := rfl
@[simp] theorem setChunk_chunk (v : Word) (s : State) : (setChunk v s).chunk = v := rfl
@[simp] theorem setChunk_started (v : Word) (s : State) : (setChunk v s).started = s.started := rfl
@[simp] theorem setChunk_frameValid (v : Word) (s : State) : (setChunk v s).frameValid = s.frameValid := rfl
@[simp] theorem setChunk_frame (v : Word) (s : State) : (setChunk v s).frame = s.frame := rfl
@[simp] theorem setChunk_err (v : Word) (s : State) : (setChunk v s).err = s.err := rfl
@[simp] theorem setChunk_srcErr (v : Word) (s : State) : (setChunk v s).srcErr = s.srcErr := rfl
@[simp] theorem setChunk_pending (v : Word) (s : State) : (setChunk v s).pending = s.pending := rfl
@[simp] theorem setChunk_req (v : Word) (s : State) : (setChunk v s).req = s.req := rfl
@[simp] theorem setChunk_fault (v : Word) (s : State) : (setChunk v s).fault = s.fault := rfl
@[simp] theorem setChunk_cmds (v : Word) (s : State) : (setChunk v s).cmds = s.cmds := rfl
@[simp] theorem setChunk_script (v : Word) (s : State) : (setChunk v s).script = s.script := rfl
@[simp] theorem setChunk_turns (v : Word) (s : State) : (setChunk v s).turns = s.turns := rfl
@[simp] theorem setChunk_sent (v : Word) (s : State) : (setChunk v s).sent = s.sent := rfl

@[simp] theorem setCmds_fsm (c : List Bytes) (s : State) : (setCmds c s).fsm = s.fsm := rfl
@[simp] theorem setCmds_buf (c : List Bytes) (s : State) : (setCmds c s).buf = s.buf := rfl
@[simp] theorem setCmds_limit (c : List Bytes) (s : State) : (setCmds c s).limit = s.limit := rfl
@[simp] theorem setCmds_chunk (c : List Bytes) (s : State) : (setCmds c s).chunk = s.chunk := rfl
@[simp] theorem setCmds_started (c : List Bytes) (s : State) : (setCmds c s).started = s.started := rfl
@[simp] theorem setCmds_frameValid (c : List Bytes) (s : State) : (setCmds c s).frameValid = s.frameValid := rfl
@[simp] theorem setCmds_frame (c : List Bytes) (s : State) : (setCmds c s).frame = s.frame := rfl
@[simp] theorem setCmds_err (c : List Bytes) (s : State) : (setCmds c s).err = s.err := rfl
@[simp] theorem setCmds_srcErr (c : List Bytes) (s : State) : (setCmds c s).srcErr = s.srcErr := rfl
@[simp] theorem setCmds_pending (c : List Bytes) (s : State) : (setCmds c s).pending = s.pending := rfl
@[simp] theorem setCmds_req (c : List Bytes) (s : State) : (setCmds c s).req = s.req := rfl
@[simp] theorem setCmds_fault (c : List Bytes) (s : State) : (setCmds c s).fault = s.fault := rfl
@[simp] theorem setCmds_cmds (c : List Bytes) (s : State) : (setCmds c s).cmds = c := rfl
@[simp] theorem setCmds_script (c : List Bytes) (s : State) : (setCmds c s).script = s.script := rfl
@[simp] theorem setCmds_turns (c : List Bytes) (s : State) : (setCmds c s).turns = s.turns := rfl
@[simp] theorem setCmds_sent (c : List Bytes) (s : State) : (setCmds c s).sent = s.sent := rfl

@[simp] theorem setScript_fsm (r : List SrcResponse) (s : State) : (setScript r s).fsm = s.fsm := rfl
@[simp] theorem setScript_buf (r : List SrcResponse) (s : State) : (setScript r s).buf = s.buf := rfl
@[simp] theorem setScript_limit (r : List SrcResponse) (s : State) : (setScript r s).limit = s.limit := rfl
@[simp] theorem setScript_chunk (r : List SrcResponse) (s : State) : (setScript r s).chunk = s.chunk := rfl
@[simp] theorem setScript_started (r : List SrcResponse) (s : State) : (setScript r s).started = s.started := rfl
@[simp] theorem setScript_frameValid (r : List SrcResponse) (s : State) : (setScript r s).frameValid = s.frameValid := rfl
@[simp] theorem setScript_frame (r : List SrcResponse) (s : State) : (setScript r s).frame = s.frame := rfl
@[simp] theorem setScript_err (r : List SrcResponse) (s : State) : (setScript r s).err = s.err := rfl
@[simp] theorem setScript_srcErr (r : List SrcResponse) (s : State) : (setScript r s).srcErr = s.srcErr := rfl
@[simp] theorem setScript_pending (r : List SrcResponse) (s : State) : (setScript r s).pending = s.pending := rfl
@[simp] theorem setScript_req (r : List SrcResponse) (s : State) : (setScript r s).req = s.req := rfl
@[simp] theorem setScript_fault (r : List SrcResponse) (s : State) : (setScript r s).fault = s.fault := rfl
@[simp] theorem setScript_cmds (r : List SrcResponse) (s : State) : (setScript r s).cmds = s.cmds := rfl
@[simp] theorem setScript_script (r : List SrcResponse) (s : State) : (setScript r s).script = r := rfl
@[simp] theorem setScript_turns (r : List SrcResponse) (s : State) : (setScript r s).turns = s.turns := rfl
@[simp] theorem setScript_sent (r : List SrcResponse) (s : State) : (setScript r s).sent = s.sent := rfl

@[simp] theorem startScan_fsm (s : State) : (startScan s).fsm = .eval := rfl
@[simp] theorem startScan_buf (s : State) : (startScan s).buf = s.buf := rfl
@[simp] theorem startScan_limit (s : State) : (startScan s).limit = s.limit := rfl
@[simp] theorem startScan_chunk (s : State) : (startScan s).chunk = s.chunk := rfl
@[simp] theorem startScan_started (s : State) : (startScan s).started = true := rfl
@[simp] theorem startScan_frameValid (s : State) : (startScan s).frameValid = false := rfl
@[simp] theorem startScan_frame (s : State) : (startScan s).frame = s.frame := rfl
@[simp] theorem startScan_err (s : State) : (startScan s).err = s.err := rfl
@[simp] theorem startScan_srcErr (s : State) : (startScan s).srcErr = s.srcErr := rfl
@[simp] theorem startScan_pending (s : State) : (startScan s).pending = s.pending := rfl
@[simp] theorem startScan_req (s : State) : (startScan s).req = s.req := rfl
@[simp] theorem startScan_fault (s : State) : (startScan s).fault = s.fault := rfl
@[simp] theorem startScan_cmds (s : State) : (startScan s).cmds = s.cmds := rfl
@[simp] theorem startScan_script (s : State) : (startScan s).script = s.script := rfl
@[simp] theorem startScan_turns (s : State) : (startScan s).turns = s.turns := rfl
@[simp] theorem startScan_sent (s : State) : (startScan s).sent = s.sent := rfl

@[simp] theorem latchSignal_fsm (sig : Signal) (s : State) : (latchSignal sig s).fsm = s.fsm := by
  cases sig <;> rfl
@[simp] theorem latchSignal_buf (sig : Signal) (s : State) : (latchSignal sig s).buf = s.buf := by
  cases sig <;> rfl
@[simp] theorem latchSignal_limit (sig : Signal) (s : State) : (latchSignal sig s).limit = s.limit := by
  cases sig <;> rfl
@[simp] theorem latchSignal_chunk (sig : Signal) (s : State) : (latchSignal sig s).chunk = s.chunk := by
  cases sig <;> rfl
@[simp] theorem latchSignal_started (sig : Signal) (s : State) : (latchSignal sig s).started = s.started := by
  cases sig <;> rfl
@[simp] theorem latchSignal_frameValid (sig : Signal) (s : State) : (latchSignal sig s).frameValid = s.frameValid := by
  cases sig <;> rfl
@[simp] theorem latchSignal_frame (sig : Signal) (s : State) : (latchSignal sig s).frame = s.frame := by
  cases sig <;> rfl
@[simp] theorem latchSignal_err (sig : Signal) (s : State) : (latchSignal sig s).err = s.err := by
  cases sig <;> rfl
@[simp] theorem latchSignal_srcErr (sig : Signal) (s : State) : (latchSignal sig s).srcErr = (match sig with | .ok => s.srcErr | .eof => s.srcErr | .err e => some e) := by
  cases sig <;> rfl
@[simp] theorem latchSignal_pending (sig : Signal) (s : State) : (latchSignal sig s).pending = (match sig with | .ok => s.pending | .eof => .eof | .err _ => .err) := by
  cases sig <;> rfl
@[simp] theorem latchSignal_req (sig : Signal) (s : State) : (latchSignal sig s).req = s.req := by
  cases sig <;> rfl
@[simp] theorem latchSignal_fault (sig : Signal) (s : State) : (latchSignal sig s).fault = s.fault := by
  cases sig <;> rfl
@[simp] theorem latchSignal_cmds (sig : Signal) (s : State) : (latchSignal sig s).cmds = s.cmds := by
  cases sig <;> rfl
@[simp] theorem latchSignal_script (sig : Signal) (s : State) : (latchSignal sig s).script = s.script := by
  cases sig <;> rfl
@[simp] theorem latchSignal_turns (sig : Signal) (s : State) : (latchSignal sig s).turns = s.turns := by
  cases sig <;> rfl
@[simp] theorem latchSignal_sent (sig : Signal) (s : State) : (latchSignal sig s).sent = s.sent := by
  cases sig <;> rfl

end Sys2Proof.Machine
end

