-- ==== Sys2Proof/Laws/Ops.lean ====
section
/-! SUPPORT. One lemma per shared operation that says everything it can do. -/

namespace Sys2Proof.Machine

theorem whenLive_live {s : State} (h : s.fault = none) (f : State → State) : whenLive s f = .next (f s) := by
  simp [whenLive, h]

theorem whenLive_halted {s : State} {c : FaultCode} (h : s.fault = some c) (f : State → State) :
    whenLive s f = .fault (.halted c) := by
  simp [whenLive, h]

theorem whenLive_eq_next {s t : State} {f : State → State} :
    whenLive s f = .next t ↔ s.fault = none ∧ t = f s := by
  cases h : s.fault <;> simp [whenLive, h, eq_comm]

theorem busy_iff (s : State) : busy s = true ↔ s.fsm = .eval ∨ s.fsm = .waitRead := by
  cases h : s.fsm <;> simp [busy, h]

theorem not_busy_iff (s : State) : busy s = false ↔ s.fsm = .idle ∨ s.fsm = .done := by
  cases h : s.fsm <;> simp [busy, h]

theorem unlessBusy_busy {s : State} (h : busy s = true) (f : State → State) :
    unlessBusy f s = raiseFault .busyViolation s := by
  simp [unlessBusy, h]

theorem unlessBusy_free {s : State} (h : busy s = false) (f : State → State) : unlessBusy f s = f s := by
  simp [unlessBusy, h]

/-- The configuration lock either faults, or lets the effect through before the first SCAN. -/
theorem unlessStarted_cases (f : State → State) (s : State) :
    (busy s = true ∧ unlessStarted f s = raiseFault .busyViolation s) ∨
    (busy s = false ∧ s.started = true ∧ unlessStarted f s = raiseFault .configAfterStart s) ∨
    (busy s = false ∧ s.started = false ∧ unlessStarted f s = f s) := by
  cases hb : busy s <;> cases hs : s.started <;> simp [unlessStarted, unlessBusy, hb, hs]

/-- `NeedMore` sends a request, or acts on the latched signal. -/
theorem needMore_cases (s : State) :
    (s.pending = .none ∧ needMore s = srcRequest s.chunk s) ∨
    (s.pending = .err ∧ needMore s = terminate .sourceError s) ∨
    (s.pending = .eof ∧ s.buf = [] ∧ needMore s = terminate .none s) ∨
    (s.pending = .eof ∧ s.buf ≠ [] ∧ needMore s = terminate .endMidFrame s) := by
  cases hp : s.pending <;> cases hb : s.buf <;> simp [needMore, hp, hb]

/-- The EVAL step terminates, emits, or needs more. -/
theorem evalStep_cases (s : State) :
    (LimitCase s.limit.toNat s.buf ∧ evalStep s = terminate .limitExceeded s) ∨
    (hdrDecode s.buf = .tooLarge ∧ 9 ≤ s.limit.toNat ∧ evalStep s = terminate .headerTooLarge s) ∨
    (∃ h n, hdrDecode s.buf = .ok h n ∧ h + n.toNat ≤ s.limit.toNat ∧ h + n.toNat ≤ s.buf.length ∧
      evalStep s = emit h n.toNat s) ∨
    (Undecided s.limit.toNat s.buf ∧ evalStep s = needMore s) := by
  cases hd : hdrDecode s.buf with
  | ok h n =>
    by_cases h1 : s.limit.toNat < h + n.toNat
    · exact .inl ⟨.inl ⟨h, n, hd, h1⟩, by simp [evalStep, hd, h1]⟩
    · by_cases h2 : h + n.toNat ≤ s.buf.length
      · exact .inr (.inr (.inl ⟨h, n, rfl, by omega, h2, by simp [evalStep, hd, h1, h2]⟩))
      · exact .inr (.inr (.inr ⟨by simp only [Undecided, hd]; omega, by simp [evalStep, hd, h1, h2]⟩))
  | insufficient =>
    by_cases h1 : s.limit.toNat < s.buf.length
    · exact .inl ⟨.inr (.inl ⟨hd, h1⟩), by simp [evalStep, hd, h1]⟩
    · exact .inr (.inr (.inr ⟨by simp only [Undecided, hd]; omega, by simp [evalStep, hd, h1]⟩))
  | tooLarge =>
    by_cases h1 : s.limit.toNat < 9
    · exact .inl ⟨.inr (.inr ⟨hd, h1⟩), by simp [evalStep, hd, h1]⟩
    · exact .inr (.inl ⟨rfl, by omega, by simp [evalStep, hd, h1]⟩)

/-- A response is taken in, or breaks the source's contract. -/
theorem takeResponse_cases (r : SrcResponse) (s : State) :
    (s.req = none ∧ takeResponse r s = raiseFault .sourceUnsolicited s) ∨
    (∃ n, s.req = some n ∧ n.toNat < r.data.length ∧ takeResponse r s = raiseFault .sourceOverrun s) ∨
    (∃ n, s.req = some n ∧ r.data.length ≤ n.toNat ∧
      takeResponse r s = endWait (latchSignal r.sig (bufAppend r.data s))) := by
  cases hr : s.req with
  | none => exact .inl ⟨rfl, by simp [takeResponse, hr]⟩
  | some n =>
    by_cases h : n.toNat < r.data.length
    · exact .inr (.inl ⟨n, rfl, h, by simp [takeResponse, hr, h]⟩)
    · exact .inr (.inr ⟨n, rfl, by omega, by simp [takeResponse, hr, h]⟩)

theorem scanAccept_idle {s : State} (h : s.fsm = .idle) :
    scanAccept s = startScan s := by
  simp [scanAccept, unlessBusy, busy, h]

theorem scanAccept_done {s : State} (h : s.fsm = .done) : scanAccept s = respond (.scan false) s := by
  simp [scanAccept, unlessBusy, busy, h]

theorem scanAccept_busy {s : State} (h : busy s = true) : scanAccept s = raiseFault .busyViolation s :=
  unlessBusy_busy h _

theorem lenWord_toNat {n : Nat} (h : n < 2 ^ 64) : (lenWord n).toNat = n := by
  simp only [lenWord, if_pos h, BitVec.toNat_ofNat]
  omega

/- ## The effect of each command in a live block -/

theorem exec_hdrEnc (L : Word) (s : State) : exec (.hdrEnc L) s = whenLive s fun s =>
    if Config.maxLen < L.toNat then raiseFault .lengthRange s else respond (.hdrEnc (hdrEncode L)) s := rfl

theorem exec_hdrDec (d : Bytes) (s : State) : exec (.hdrDec d) s = whenLive s (respond (hdrDecResponse d)) := rfl

theorem exec_frmEnc (p : Bytes) (s : State) : exec (.frmEnc p) s = whenLive s fun s =>
    if Config.maxLen < p.length then raiseFault .lengthRange s else respond (.frmEnc (frmEncode p)) s := rfl

theorem exec_frmDec (d : Bytes) (s : State) : exec (.frmDec d) s = whenLive s (respond (frmDecResponse d)) := rfl

theorem exec_scan (s : State) : exec .scan s = whenLive s scanAccept := rfl

theorem exec_frameRd (s : State) : exec .frameRd s = whenLive s (unlessBusy fun s =>
    if s.frameValid then respond (.frameRd s.frame) s else raiseFault .frameInvalid s) := rfl

theorem exec_srcerrRd (s : State) : exec .srcerrRd s = whenLive s (unlessBusy fun s =>
    if s.err = .sourceError then respond (.srcerrRd s.srcErr) s else respond (.srcerrRd none) s) := rfl

theorem exec_cfgLimit (v : Word) (s : State) : exec (.cfgLimit v) s = whenLive s (unlessStarted fun s =>
    respond .cfgLimit (setLimit v s)) := rfl

theorem exec_cfgChunk (v : Word) (s : State) : exec (.cfgChunk v) s = whenLive s (unlessStarted fun s =>
    if v = 0 then raiseFault .configInvalid s else respond .cfgChunk (setChunk v s)) := rfl

theorem exec_regRd (n : Byte) (s : State) : exec (.regRd n) s = whenLive s fun s =>
    match regOfNumber n with
    | none => raiseFault .illegalCommand s
    | some r =>
      match readReg r s with
      | none => raiseFault .frameInvalid s
      | some v => respond (.regRd v) s := rfl

/-- Everything a command can do: fault, respond, write a configuration register, or start a SCAN. -/
theorem exec_cases {i : Instr} {s t : State} (h : exec i s = .next t) :
    s.fault = none ∧
    ((∃ c, t = raiseFault c s) ∨
     (∃ r, (∀ b, r = .scan b → i = .scan ∧ s.fsm = .done) ∧ t = respond r s) ∨
     (∃ v, i = .cfgLimit v ∧ busy s = false ∧ s.started = false ∧ t = respond .cfgLimit (setLimit v s)) ∨
     (∃ v, i = .cfgChunk v ∧ v ≠ 0 ∧ busy s = false ∧ s.started = false ∧
        t = respond .cfgChunk (setChunk v s)) ∨
     (i = .scan ∧ s.fsm = .idle ∧ t = startScan s)) := by
  cases i with
  | hdrEnc L =>
    rw [exec_hdrEnc] at h
    obtain ⟨h0, rfl⟩ := whenLive_eq_next.mp h
    refine ⟨h0, ?_⟩
    split
    · exact .inl ⟨_, rfl⟩
    · exact .inr (.inl ⟨_, by simp, rfl⟩)
  | hdrDec d =>
    obtain ⟨h0, rfl⟩ := whenLive_eq_next.mp h
    refine ⟨h0, .inr (.inl ⟨_, ?_, rfl⟩)⟩
    intro b hb
    unfold hdrDecResponse at hb
    split at hb <;> cases hb
  | frmEnc p =>
    rw [exec_frmEnc] at h
    obtain ⟨h0, rfl⟩ := whenLive_eq_next.mp h
    refine ⟨h0, ?_⟩
    split
    · exact .inl ⟨_, rfl⟩
    · exact .inr (.inl ⟨_, by simp, rfl⟩)
  | frmDec d =>
    obtain ⟨h0, rfl⟩ := whenLive_eq_next.mp h
    refine ⟨h0, .inr (.inl ⟨_, ?_, rfl⟩)⟩
    intro b hb
    unfold frmDecResponse at hb
    split at hb <;> cases hb
  | scan =>
    obtain ⟨h0, rfl⟩ := whenLive_eq_next.mp h
    refine ⟨h0, ?_⟩
    cases hf : s.fsm with
    | idle => exact .inr (.inr (.inr (.inr ⟨rfl, rfl, scanAccept_idle hf⟩)))
    | done => exact .inr (.inl ⟨_, by simp, scanAccept_done hf⟩)
    | eval => exact .inl ⟨_, scanAccept_busy ((busy_iff s).mpr (.inl hf))⟩
    | waitRead => exact .inl ⟨_, scanAccept_busy ((busy_iff s).mpr (.inr hf))⟩
  | frameRd =>
    obtain ⟨h0, rfl⟩ := whenLive_eq_next.mp h
    refine ⟨h0, ?_⟩
    cases hb : busy s with
    | true => exact .inl ⟨_, unlessBusy_busy hb _⟩
    | false =>
      rw [unlessBusy_free hb]
      split
      · exact .inr (.inl ⟨_, by simp, rfl⟩)
      · exact .inl ⟨_, rfl⟩
  | srcerrRd =>
    obtain ⟨h0, rfl⟩ := whenLive_eq_next.mp h
    refine ⟨h0, ?_⟩
    cases hb : busy s with
    | true => exact .inl ⟨_, unlessBusy_busy hb _⟩
    | false =>
      rw [unlessBusy_free hb]
      split <;> exact .inr (.inl ⟨_, by simp, rfl⟩)
  | cfgLimit v =>
    obtain ⟨h0, rfl⟩ := whenLive_eq_next.mp h
    refine ⟨h0, ?_⟩
    obtain ⟨-, h1⟩ | ⟨-, -, h1⟩ | ⟨hb, hs, h1⟩ :=
      unlessStarted_cases (fun s => respond .cfgLimit (setLimit v s)) s
    · exact .inl ⟨_, h1⟩
    · exact .inl ⟨_, h1⟩
    · exact .inr (.inr (.inl ⟨v, rfl, hb, hs, h1⟩))
  | cfgChunk v =>
    obtain ⟨h0, rfl⟩ := whenLive_eq_next.mp h
    refine ⟨h0, ?_⟩
    obtain ⟨-, h1⟩ | ⟨-, -, h1⟩ | ⟨hb, hs, h1⟩ :=
      unlessStarted_cases
        (fun s => if v = 0 then raiseFault .configInvalid s else respond .cfgChunk (setChunk v s)) s
    · exact .inl ⟨_, h1⟩
    · exact .inl ⟨_, h1⟩
    · by_cases hv : v = 0
      · exact .inl ⟨.configInvalid, by rw [h1]; simp [hv]⟩
      · exact .inr (.inr (.inr (.inl ⟨v, rfl, hv, hb, hs, by rw [h1]; exact if_neg hv⟩)))
  | regRd n =>
    rw [exec_regRd] at h
    obtain ⟨h0, rfl⟩ := whenLive_eq_next.mp h
    refine ⟨h0, ?_⟩
    split
    · exact .inl ⟨_, rfl⟩
    · split
      · exact .inl ⟨_, rfl⟩
      · exact .inr (.inl ⟨_, by simp, rfl⟩)

end Sys2Proof.Machine
end

