-- ==== Sys2Proof/Laws/PerInstr.lean ====
section
/-! SUPPORT. What holds of every command as syntax, one lemma per constructor. -/

namespace Sys2Proof.Laws.Opcode

/-- The first byte of a command's encoding is an opcode of R84. -/
def Statement (i : Instr) : Prop := ∃ code operand, encode i = code :: operand ∧ (opRow code).isSome = true

theorem hdrEnc (length : Word) : Statement (.hdrEnc length) := ⟨_, _, rfl, rfl⟩
theorem hdrDec (data : Bytes) : Statement (.hdrDec data) := ⟨_, _, rfl, rfl⟩
theorem frmEnc (payload : Bytes) : Statement (.frmEnc payload) := ⟨_, _, rfl, rfl⟩
theorem frmDec (data : Bytes) : Statement (.frmDec data) := ⟨_, _, rfl, rfl⟩
theorem scan : Statement .scan := ⟨_, _, rfl, rfl⟩
theorem frameRd : Statement .frameRd := ⟨_, _, rfl, rfl⟩
theorem srcerrRd : Statement .srcerrRd := ⟨_, _, rfl, rfl⟩
theorem cfgLimit (value : Word) : Statement (.cfgLimit value) := ⟨_, _, rfl, rfl⟩
theorem cfgChunk (value : Word) : Statement (.cfgChunk value) := ⟨_, _, rfl, rfl⟩
theorem regRd (n : Byte) : Statement (.regRd n) := ⟨_, _, rfl, rfl⟩

end Sys2Proof.Laws.Opcode
end

