-- ==== Sys2Proof/Laws/Step.lean ====
section
/-! SUPPORT. What a delivered command and a step can do. -/

namespace Sys2Proof.Machine

/-- Everything a step can do: a reset; nothing, where nobody has a move; or the move of one agent. -/
theorem step_cases {s t : State} (h : step s = .next t) :
    (∃ src, nextTurn s = some (.reset src) ∧ t = resetBlock src (spendTurn s)) ∨
    (s.fault = none ∧
      ((nextTurn s = none ∧ t = s) ∨
       (nextTurn s = some .host ∧ hostMove (spendTurn s) = .next t) ∨
       (nextTurn s = some .source ∧ sourceMove (spendTurn s) = .next t) ∨
       (nextTurn s = some .scanner ∧ scannerMove (spendTurn s) = .next t))) := by
  unfold step takeStep at h
  split at h
  · next src _ ht => exact .inl ⟨src, ht, by cases h; rfl⟩
  · cases h
  · cases h
  · cases h
  · cases h
  · next u hf ht =>
    cases u with
    | reset src => exact .inl ⟨src, ht, by cases h; rfl⟩
    | host => exact .inr ⟨hf, .inr (.inl ⟨ht, h⟩)⟩
    | source => exact .inr ⟨hf, .inr (.inr (.inl ⟨ht, h⟩))⟩
    | scanner => exact .inr ⟨hf, .inr (.inr (.inr ⟨ht, h⟩))⟩
  · next hf ht => exact .inr ⟨hf, .inl ⟨ht, by cases h; rfl⟩⟩

/-- A step of a live block in which an agent moves. -/
theorem step_live {s : State} {u : Turn} (hf : s.fault = none) (ht : nextTurn s = some u) :
    step s = agentMove u (spendTurn s) := by
  unfold step takeStep
  split <;> simp_all

/-- A faulted block has no step but a reset. -/
theorem step_halted {s : State} {c : FaultCode} (hf : s.fault = some c)
    (hr : ∀ src, nextTurn s ≠ some (.reset src)) : step s = .fault (.halted c) := by
  unfold step takeStep
  split <;> simp_all

/-- The scanner's step in EVAL. -/
theorem step_scanner {s : State} (hf : s.fault = none) (ht : nextTurn s = some .scanner) (he : s.fsm = .eval) :
    step s = .next (evalStep (spendTurn s)) := by
  rw [step_live hf ht]
  simp [agentMove, scannerMove, he]

/-- The byte source's step. -/
theorem step_source {s : State} {r : SrcResponse} {rest : List SrcResponse} (hf : s.fault = none)
    (ht : nextTurn s = some .source) (hs : s.script = r :: rest) :
    step s = .next (takeResponse r (setScript rest (spendTurn s))) := by
  rw [step_live hf ht]
  simp [agentMove, sourceMove, hs]

/-- The host's step. -/
theorem step_host {s : State} {c : Bytes} {rest : List Bytes} (hf : s.fault = none)
    (ht : nextTurn s = some .host) (hc : s.cmds = c :: rest) :
    step s = runCommand c (setCmds rest (spendTurn s)) := by
  rw [step_live hf ht]
  simp [agentMove, hostMove, hc]

/-- Only the one-byte command 0x10 is a SCAN. -/
theorem eq_of_decode_scan {c : Bytes} (h : decode c = .ok .scan) : c = [0x10#8] := by
  cases c with
  | nil => cases h
  | cons code operand =>
    simp only [decode] at h
    split at h
    · cases h
    · next row hrow =>
      have hm := List.mem_of_find?_eq_some hrow
      have hc := List.find?_some hrow
      simp only [opTable, List.mem_cons, List.not_mem_nil, or_false] at hm
      rcases hm with rfl | rfl | rfl | rfl | rfl | rfl | rfl | rfl | rfl | rfl <;>
        simp only [decodeOperand, Except.map] at h <;> split at h <;> cases h
      next hop =>
        simp only [noOperand] at hop
        split at hop
        · next h0 => simp at hc; simp [h0, ← hc]
        · cases hop

/-- Everything a delivered command can do. -/
theorem runCommand_cases {c : Bytes} {s t : State} (h : runCommand c s = .next t) :
    s.fault = none ∧
    ((∃ f, t = raiseFault f s) ∨
     (∃ r, (∀ b, r = .scan b → s.fsm = .done) ∧ t = respond r s) ∨
     (∃ v, busy s = false ∧ s.started = false ∧ t = respond .cfgLimit (setLimit v s)) ∨
     (∃ v, v ≠ 0 ∧ busy s = false ∧ s.started = false ∧ t = respond .cfgChunk (setChunk v s)) ∨
     (c = [0x10#8] ∧ s.fsm = .idle ∧ t = startScan s)) := by
  unfold runCommand at h
  split at h
  · obtain ⟨h0, rfl⟩ := whenLive_eq_next.mp h
    exact ⟨h0, .inl ⟨_, rfl⟩⟩
  · next i hi =>
    obtain ⟨h0, h1⟩ := exec_cases h
    refine ⟨h0, ?_⟩
    obtain ⟨f, rfl⟩ | ⟨r, hr, rfl⟩ | ⟨v, -, hb, hs, rfl⟩ | ⟨v, -, hv, hb, hs, rfl⟩ | ⟨rfl, hf, rfl⟩ := h1
    · exact .inl ⟨f, rfl⟩
    · exact .inr (.inl ⟨r, fun b hb => (hr b hb).2, rfl⟩)
    · exact .inr (.inr (.inl ⟨v, hb, hs, rfl⟩))
    · exact .inr (.inr (.inr (.inl ⟨v, hv, hb, hs, rfl⟩)))
    · exact .inr (.inr (.inr (.inr ⟨eq_of_decode_scan hi, hf, rfl⟩)))

/-- Everything the host's move can do. -/
theorem hostMove_cases {s t : State} (h : hostMove s = .next t) :
    (s.cmds = [] ∧ t = s) ∨ ∃ c rest, s.cmds = c :: rest ∧ runCommand c (setCmds rest s) = .next t := by
  unfold hostMove at h
  split at h
  · next h0 => exact .inl ⟨h0, by cases h; rfl⟩
  · next c rest h0 => exact .inr ⟨c, rest, h0, h⟩

/-- Everything the byte source's move can do. -/
theorem sourceMove_cases {s t : State} (h : sourceMove s = .next t) :
    (s.script = [] ∧ t = s) ∨
    ∃ r rest, s.script = r :: rest ∧ t = takeResponse r (setScript rest s) := by
  unfold sourceMove at h
  split at h
  · next h0 => exact .inl ⟨h0, by cases h; rfl⟩
  · next r rest h0 => exact .inr ⟨r, rest, h0, by cases h; rfl⟩

/-- Everything the scanner's move can do. -/
theorem scannerMove_cases {s t : State} (h : scannerMove s = .next t) :
    (s.fsm ≠ .eval ∧ t = s) ∨ (s.fsm = .eval ∧ t = evalStep s) := by
  unfold scannerMove at h
  split at h <;> cases h <;> simp_all

end Sys2Proof.Machine
end

