-- ==== Sys2Proof/Laws/Safety.lean ====
section
/-! SUPPORT. The small lemmas of the notions of Safety.lean. -/

namespace Sys2Proof.Machine

/- ## Same registers -/

theorem sameRegisters_refl (s : State) : SameRegisters s s := by constructor <;> rfl

theorem sameRegisters_trans {s t u : State} (h : SameRegisters s t) (g : SameRegisters t u) : SameRegisters s u where
  fsm := g.fsm.trans h.fsm
  buf := g.buf.trans h.buf
  limit := g.limit.trans h.limit
  chunk := g.chunk.trans h.chunk
  started := g.started.trans h.started
  frameValid := g.frameValid.trans h.frameValid
  frame := g.frame.trans h.frame
  err := g.err.trans h.err
  srcErr := g.srcErr.trans h.srcErr
  pending := g.pending.trans h.pending
  req := g.req.trans h.req

theorem sameRegisters_raiseFault (c : FaultCode) (s : State) : SameRegisters s (raiseFault c s) := by constructor <;> rfl
theorem sameRegisters_respond (r : Response) (s : State) : SameRegisters s (respond r s) := by constructor <;> rfl
theorem sameRegisters_spendTurn (s : State) : SameRegisters s (spendTurn s) := by constructor <;> rfl
theorem sameRegisters_setCmds (c : List Bytes) (s : State) : SameRegisters s (setCmds c s) := by constructor <;> rfl
theorem sameRegisters_setScript (r : List SrcResponse) (s : State) : SameRegisters s (setScript r s) := by
  constructor <;> rfl

theorem busy_congr {s t : State} (h : SameRegisters s t) : busy t = busy s := by simp [busy, h.fsm]

theorem statusWord_congr {s t : State} (h : SameRegisters s t) : statusWord t = statusWord s := by
  simp [statusWord, terminated, busy, h.fsm, h.pending, h.frameValid, h.started]

/-- The invariants look at the registers only, and not at `fault`. -/
theorem inv_congr {s t : State} (hi : Inv s) (h : SameRegisters s t) : Inv t := by
  obtain ⟨hf, hb, hl, hc, hs, hv, hfr, he, hse, hp, hr⟩ := h
  constructor
  · rw [hr, hf]; exact hi.reqIffWait
  · rw [hv, hf]; exact hi.validIdle
  · rw [he, hf]; exact hi.errDone
  · rw [hf, hs]; exact hi.startedUnlessIdle
  · rw [hp, hf]; exact hi.pendingNotWait
  · rw [hse, hp]; exact hi.srcErrIffErr
  · rw [hb, hl, hc]; exact hi.bufBound
  · rw [hr, hc]; exact hi.reqIsChunk
  · rw [hc]; exact hi.chunkPos
  · rw [hf, hl, hb]; exact hi.waitUndecided
  · rw [hs, hb]; exact hi.emptyUnstarted
  · rw [he]; exact hi.errCodes

/- ## An undecided buffer -/

theorem undecided_length {limit : Nat} {buf : Bytes} (h : Undecided limit buf) : buf.length ≤ limit := by
  unfold Undecided at h
  cases hd : hdrDecode buf <;> simp [hd] at h <;> omega

theorem undecided_evalStep {s : State} (h : Undecided s.limit.toNat s.buf) : evalStep s = needMore s := by
  unfold Undecided at h
  cases hd : hdrDecode s.buf with
  | ok n len =>
    simp only [hd] at h
    simp only [evalStep, hd]
    rw [if_neg (by omega), if_neg (by omega)]
  | insufficient =>
    simp only [hd] at h
    simp only [evalStep, hd]
    rw [if_neg (by omega)]
  | tooLarge => simp [hd] at h

theorem limitCase_evalStep {s : State} (h : LimitCase s.limit.toNat s.buf) :
    evalStep s = terminate .limitExceeded s := by
  obtain ⟨n, len, hd, hl⟩ | ⟨hd, hl⟩ | ⟨hd, hl⟩ := h <;> simp [evalStep, hd, hl]

/- ## Runs and turns -/

theorem nextTurn_cons {s : State} {t : Turn} {rest : List Turn} (h : s.turns = t :: rest) : nextTurn s = some t := by
  simp [nextTurn, h]

theorem runSteps_succ {s t : State} (h : step s = .next t) (k : Nat) : runSteps (k + 1) s = runSteps k t := by
  simp [runSteps, h]

theorem runSteps_add {s t : State} {j : Nat} (h : runSteps j s = .next t) (k : Nat) :
    runSteps (j + k) s = runSteps k t := by
  induction j generalizing s with
  | zero => cases h; rw [Nat.zero_add]
  | succ j ih =>
    rw [Nat.succ_add_eq_add_succ, Nat.add_succ]
    simp only [runSteps] at h ⊢
    split at h
    · next u hu => exact ih h
    · cases h
    · cases h

end Sys2Proof.Machine
end

