-- ==== Sys2Proof/Laws/Wire.lean ====
section
/-! SUPPORT. What the loops of the header encoder and decoder do, each by one induction. -/

open Finset

namespace Sys2Proof.Machine

theorem digitOf_toNat (b : Byte) : (digitOf b).toNat = b.toNat % 128 := by
  simp [digitOf, BitVec.extractLsb'_toNat]

/-- Adding a digit above the digits read so far: the OR is a sum (R108). -/
theorem or_digit_toNat {acc : Word} {k : Nat} (d : BitVec 7) (hk : k ≤ 8) (ha : acc.toNat < 2 ^ (7 * k)) :
    (acc ||| (d.setWidth 64 <<< (7 * k))).toNat = acc.toNat + d.toNat * 2 ^ (7 * k) ∧
    (acc ||| (d.setWidth 64 <<< (7 * k))).toNat < 2 ^ (7 * (k + 1)) := by
  have hd : d.toNat < 2 ^ 7 := d.isLt
  have hlt : d.toNat * 2 ^ (7 * k) < 2 ^ 64 := by
    calc d.toNat * 2 ^ (7 * k) < 2 ^ 7 * 2 ^ (7 * k) := Nat.mul_lt_mul_of_pos_right hd (by positivity)
      _ = 2 ^ (7 + 7 * k) := by rw [pow_add]
      _ ≤ 2 ^ 64 := Nat.pow_le_pow_right (by norm_num) (by omega)
  have h1 : (acc ||| (d.setWidth 64 <<< (7 * k))).toNat = acc.toNat + d.toNat * 2 ^ (7 * k) := by
    rw [BitVec.toNat_or, BitVec.toNat_shiftLeft, BitVec.toNat_setWidth,
      Nat.mod_eq_of_lt (by omega : d.toNat < 2 ^ 64), Nat.shiftLeft_eq, Nat.mod_eq_of_lt hlt,
      Nat.lor_comm, Nat.mul_comm, ← Nat.two_pow_add_eq_or_of_lt ha, Nat.add_comm]
  refine ⟨h1, ?_⟩
  rw [h1]
  have : 2 ^ (7 * (k + 1)) = 2 ^ 7 * 2 ^ (7 * k) := by rw [← pow_add]; congr 1; ring
  rw [this]
  nlinarith [Nat.two_pow_pos (7 * k)]

/-- What the decode loop finds: the terminating byte among the bytes it may still read, and the sum of the digits. -/
theorem hdrDecodeLoop_ok {left k : Nat} {acc : Word} {s : Bytes} {h : Nat} {n : Word}
    (hk : k + left ≤ 9) (ha : acc.toNat < 2 ^ (7 * k)) :
    hdrDecodeLoop left k acc s = .ok h n ↔
      ∃ j, j < left ∧ j < s.length ∧ (∀ i, i < j → isCont (s.getD i 0) = true) ∧ isCont (s.getD j 0) = false ∧
        h = k + j + 1 ∧
        n.toNat = acc.toNat + ∑ i ∈ range (j + 1), (s.getD i 0).toNat % 128 * 2 ^ (7 * (k + i)) := by
  induction left generalizing k acc s with
  | zero => cases s <;> simp [hdrDecodeLoop]
  | succ left ih =>
    cases s with
    | nil => simp [hdrDecodeLoop]
    | cons b rest =>
      obtain ⟨e1, e2⟩ := or_digit_toNat (digitOf b) (by omega) ha
      rw [digitOf_toNat] at e1
      by_cases hb : isCont b = true
      · simp only [hdrDecodeLoop, hb, if_true]
        rw [ih (by omega) e2, e1]
        constructor
        · rintro ⟨j, h1, h2, h3, h4, rfl, h6⟩
          refine ⟨j + 1, by omega, by simpa using h2, ?_, by simpa using h4, by omega, ?_⟩
          · intro i hi
            cases i with
            | zero => simpa using hb
            | succ i => simpa using h3 i (by omega)
          · rw [h6, sum_range_succ' _ (j + 1)]
            simp only [List.getD_cons_succ, List.getD_cons_zero]
            have : ∀ i, 7 * (k + 1 + i) = 7 * (k + (i + 1)) := by intro i; ring
            simp only [this, Nat.add_zero]
            ring
        · rintro ⟨j, h1, h2, h3, h4, rfl, h6⟩
          cases j with
          | zero => simp [hb] at h4
          | succ j =>
            refine ⟨j, by omega, by simpa using h2, ?_, by simpa using h4, by omega, ?_⟩
            · intro i hi
              simpa using h3 (i + 1) (by omega)
            · rw [h6, sum_range_succ' _ (j + 1)]
              simp only [List.getD_cons_succ, List.getD_cons_zero]
              have : ∀ i, 7 * (k + 1 + i) = 7 * (k + (i + 1)) := by intro i; ring
              simp only [this, Nat.add_zero]
              ring
      · have hb' : isCont b = false := by simpa using hb
        simp only [hdrDecodeLoop, hb', Bool.false_eq_true, if_false, HdrResult.ok.injEq]
        constructor
        · rintro ⟨rfl, rfl⟩
          exact ⟨0, by omega, by simp, by simp, by simpa using hb', by omega, by simp [e1]⟩
        · rintro ⟨j, h1, h2, h3, h4, rfl, h6⟩
          cases j with
          | zero =>
            refine ⟨by omega, ?_⟩
            apply BitVec.eq_of_toNat_eq
            rw [e1, h6]; simp
          | succ j => have := h3 0 (by omega); simp [hb'] at this

theorem hdrDecodeLoop_insufficient (left k : Nat) (acc : Word) (s : Bytes) :
    hdrDecodeLoop left k acc s = .insufficient ↔ s.length ≤ left ∧ ∀ b ∈ s, isCont b = true := by
  induction left generalizing k acc s with
  | zero => cases s <;> simp [hdrDecodeLoop]
  | succ left ih =>
    cases s with
    | nil => simp [hdrDecodeLoop]
    | cons b rest =>
      by_cases hb : isCont b = true
      · simp [hdrDecodeLoop, hb, ih]
      · simp [hdrDecodeLoop, hb]

theorem hdrDecodeLoop_tooLarge (left k : Nat) (acc : Word) (s : Bytes) :
    hdrDecodeLoop left k acc s = .tooLarge ↔ left < s.length ∧ ∀ b ∈ s.take left, isCont b = true := by
  induction left generalizing k acc s with
  | zero => cases s <;> simp [hdrDecodeLoop]
  | succ left ih =>
    cases s with
    | nil => simp [hdrDecodeLoop]
    | cons b rest =>
      by_cases hb : isCont b = true
      · simp [hdrDecodeLoop, hb, ih]
      · simp [hdrDecodeLoop, hb]

/-- A decided outcome of the loop stays when bytes are added. -/
theorem hdrDecodeLoop_append {left k : Nat} {acc : Word} {s : Bytes} (t : Bytes)
    (h : hdrDecodeLoop left k acc s ≠ .insufficient) :
    hdrDecodeLoop left k acc (s ++ t) = hdrDecodeLoop left k acc s := by
  induction left generalizing k acc s with
  | zero => cases s <;> simp_all [hdrDecodeLoop]
  | succ left ih =>
    cases s with
    | nil => simp [hdrDecodeLoop] at h
    | cons b rest =>
      by_cases hb : isCont b = true
      · simp only [hdrDecodeLoop, hb, if_true, List.cons_append] at h ⊢
        exact ih h
      · simp [hdrDecodeLoop, hb]

/-- The loop reads at most one byte more than it may use. -/
theorem hdrDecodeLoop_take (left k : Nat) (acc : Word) (s : Bytes) :
    hdrDecodeLoop left k acc (s.take (left + 1)) = hdrDecodeLoop left k acc s := by
  induction left generalizing k acc s with
  | zero => cases s <;> simp [hdrDecodeLoop]
  | succ left ih =>
    cases s with
    | nil => simp
    | cons b rest =>
      by_cases hb : isCont b = true
      · simp only [List.take_succ_cons, hdrDecodeLoop, hb, if_true]; exact ih _ _ _
      · simp [hdrDecodeLoop, hb]

theorem headerByte_toNat (c : Bool) (d : BitVec 7) :
    (headerByte c d).toNat = (if c then 128 else 0) + d.toNat := by
  revert c d; decide

theorem isCont_iff (b : Byte) : isCont b = true ↔ 128 ≤ b.toNat := by
  revert b; decide

/-- The digits the encode loop writes: how many, and each of them. -/
theorem hdrEncodeLoop_spec {rounds : Nat} {v : Word} (hv : v ≠ 0) (hr : v.toNat < 2 ^ (7 * rounds)) :
    1 ≤ (hdrEncodeLoop rounds v).length ∧
    v.toNat < 2 ^ (7 * (hdrEncodeLoop rounds v).length) ∧
    2 ^ (7 * ((hdrEncodeLoop rounds v).length - 1)) ≤ v.toNat ∧
    ∀ k, k < (hdrEncodeLoop rounds v).length →
      ((hdrEncodeLoop rounds v).getD k 0).toNat =
        (if k + 1 < (hdrEncodeLoop rounds v).length then 128 else 0) + v.toNat / 2 ^ (7 * k) % 128 := by
  induction rounds generalizing v with
  | zero =>
    exfalso; apply hv; apply BitVec.eq_of_toNat_eq; simp at hr; simp [hr]
  | succ rounds ih =>
    have hdig : (v.extractLsb' 0 7).toNat = v.toNat % 128 := by simp [BitVec.extractLsb'_toNat]
    have hshift : (v >>> 7).toNat = v.toNat / 128 := by
      rw [BitVec.toNat_ushiftRight, Nat.shiftRight_eq_div_pow]
    have hpos : 0 < v.toNat := by
      rcases Nat.eq_zero_or_pos v.toNat with h | h
      · exact absurd (BitVec.eq_of_toNat_eq (by simpa using h)) hv
      · exact h
    simp only [hdrEncodeLoop, if_neg hv]
    by_cases h0 : v >>> 7 = 0
    · have hlt : v.toNat < 128 := by
        have : (v >>> 7).toNat = 0 := by rw [h0]; rfl
        rw [hshift] at this; omega
      have hnil : hdrEncodeLoop rounds (v >>> 7) = [] := by
        rw [h0]; cases rounds <;> simp [hdrEncodeLoop]
      rw [hnil]
      refine ⟨by simp, by simpa using hlt, by simp; omega, ?_⟩
      intro k hk
      have : k = 0 := by simpa using hk
      subst this
      simp [headerByte_toNat, h0, hdig]
    · obtain ⟨i1, i2, i3, i4⟩ := ih h0 (by
        rw [hshift]
        have : 2 ^ (7 * (rounds + 1)) = 2 ^ (7 * rounds) * 128 := by rw [mul_add, pow_add]; norm_num
        rw [this] at hr
        exact Nat.div_lt_of_lt_mul (by rw [Nat.mul_comm]; exact hr))
      rw [hshift] at i2 i3 i4
      set m := (hdrEncodeLoop rounds (v >>> 7)).length with hm
      simp only [List.length_cons, ← hm]
      refine ⟨by omega, ?_, ?_, ?_⟩
      · have : 2 ^ (7 * (m + 1)) = 2 ^ (7 * m) * 128 := by rw [mul_add, pow_add]; norm_num
        rw [this]
        omega
      · have h2 : 2 ^ (7 * (m + 1 - 1)) = 2 ^ (7 * (m - 1)) * 128 := by
          rw [show (128 : Nat) = 2 ^ 7 by norm_num, ← pow_add]; congr 1; omega
        rw [h2]
        omega
      · intro k hk
        cases k with
        | zero =>
          have : 0 + 1 < m + 1 := by omega
          simp only [List.getD_cons_zero, headerByte_toNat, hdig, this, if_true]
          simp [show ¬ v >>> 7 = 0#64 from h0]
        | succ k =>
          rw [List.getD_cons_succ, i4 k (by omega), Nat.div_div_eq_div_mul]
          have h2 : 128 * 2 ^ (7 * k) = 2 ^ (7 * (k + 1)) := by
            rw [show (128 : Nat) = 2 ^ 7 by norm_num, ← pow_add]; congr 1; ring
          rw [h2]
          congr 1
          by_cases hx : k + 1 < m <;> simp [hx]

/-- The digits of a number below `2^(7m)` add up to it. -/
theorem sum_digits (v m : Nat) :
    ∑ i ∈ range m, v / 2 ^ (7 * i) % 128 * 2 ^ (7 * i) = v % 2 ^ (7 * m) := by
  induction m with
  | zero => simp [Nat.mod_one]
  | succ m ih =>
    rw [sum_range_succ, ih]
    have h2 : 2 ^ (7 * (m + 1)) = 2 ^ (7 * m) * 128 := by rw [mul_add, pow_add]; norm_num
    rw [h2, Nat.mod_mul]
    ring

end Sys2Proof.Machine
end

