-- ==== Sys2Proof/Tests/Slice0.lean ====
section
/-! SUPPORT. The tests of the model: the expected values are those of spec/95_test_vectors.md and of the spec's own examples, cited at each
test. The second half holds a witness of the hypotheses of every obligation that has some: `test_witness_<obligation>`. -/

namespace Sys2Proof.Tests

open Sys2Proof.Machine

/- ## Small states and what is read off an outcome -/

/-- After reset and `CFG_LIMIT 16`, `CFG_CHUNK 4`. -/
def fresh : State := { State.reset with limit := 16#64, chunk := 4#64 }

/-- A SCAN is in progress, and the scanner examines `buf`. -/
def scanning (buf : Bytes) : State := { fresh with started := true, fsm := .eval, buf := buf }

/-- A SCAN waits for the byte source, which has these responses still to give. -/
def waiting (script : List SrcResponse) : State :=
  { fresh with started := true, fsm := .waitRead, req := some 4#64, script := script }

/-- A SCAN has emitted `frame`. -/
def emitted (frame : Bytes) : State := { fresh with started := true, frameValid := true, frame := frame }

/-- The scanner has terminated. -/
def finished (code : ErrCode) : State := { fresh with started := true, fsm := .done, err := code }

/-- The next state. -/
def after : Host.Outcome State Fault Refusal → Option State
  | .next t => some t
  | .fault _ => none
  | .refused _ => none

/-- The responses sent in the next state. -/
def answers (o : Host.Outcome State Fault Refusal) : Option (List Response) := (after o).map fun t => t.sent

/-- The fault recorded in the next state. -/
def raised (o : Host.Outcome State Fault Refusal) : Option FaultCode := (after o).bind fun t => t.fault

/-- The host issues the command `bytes` in `s`. -/
def issue (bytes : Bytes) (s : State) : Host.Outcome State Fault Refusal := step (placeCommand bytes s)

/-- Bytes 0x80, which continue a header. -/
def conts (n : Nat) : Bytes := List.replicate n 0x80#8

/- ## Well-formedness: a term that each check refuses, and the edge that it accepts -/

theorem test_wellFormed_register : wellFormed (.regRd 5#8) = true ∧ wellFormed (.regRd 6#8) = false := by decide

/-- One byte more than a `bytes` operand can carry. -/
theorem test_wellFormed_bytes :
    wellFormed (.hdrDec (List.replicate (2 ^ 63) 0#8)) = false ∧
    wellFormed (.frmEnc (List.replicate (2 ^ 63) 0#8)) = false ∧
    wellFormed (.frmDec (List.replicate (2 ^ 63) 0#8)) = false := by
  refine ⟨?_, ?_, ?_⟩ <;> simp only [wellFormed, List.length_replicate] <;> decide

/-- The longest `bytes` operand is accepted. -/
theorem test_wellFormed_longest :
    wellFormed (.hdrDec (List.replicate Config.maxLen 0#8)) = true ∧
    wellFormed (.frmEnc (List.replicate Config.maxLen 0#8)) = true ∧
    wellFormed (.frmDec (List.replicate Config.maxLen 0#8)) = true := by
  refine ⟨?_, ?_, ?_⟩ <;> simp only [wellFormed, List.length_replicate] <;> decide

/- ## Decoding: words written out from R80 to R84 (R89, 95 L2.7) -/

theorem test_decode_hdrEnc :
    decode [0x01#8, 0x2C#8, 0x01#8, 0#8, 0#8, 0#8, 0#8, 0#8, 0#8] = .ok (.hdrEnc 300#64) := by decide
theorem test_decode_hdrDec : decode [0x02#8, 0x02#8, 0xAC#8, 0x02#8] = .ok (.hdrDec [0xAC#8, 0x02#8]) := by decide
theorem test_decode_frmEnc : decode [0x03#8, 0x01#8, 0xAA#8] = .ok (.frmEnc [0xAA#8]) := by decide
theorem test_decode_frmDec : decode [0x04#8, 0x01#8, 0x00#8] = .ok (.frmDec [0x00#8]) := by decide
theorem test_decode_scan : decode [0b00010000#8] = .ok .scan := by decide
theorem test_decode_frameRd : decode [0b00010001#8] = .ok .frameRd := by decide
theorem test_decode_srcerrRd : decode [0b00010010#8] = .ok .srcerrRd := by decide
theorem test_decode_cfgLimit :
    decode [0x20#8, 0xFF#8, 0xFF#8, 0xFF#8, 0xFF#8, 0xFF#8, 0xFF#8, 0xFF#8, 0xFF#8] =
      .ok (.cfgLimit 0xFFFFFFFFFFFFFFFF#64) := by decide
theorem test_decode_cfgChunk :
    decode [0x21#8, 0x00#8, 0x00#8, 0x00#8, 0x00#8, 0x00#8, 0x00#8, 0x00#8, 0x00#8] = .ok (.cfgChunk 0#64) := by
  decide
theorem test_decode_regRd : decode [0x30#8, 0x05#8] = .ok (.regRd 5#8) := by decide

/-- R75: a framing header that is not canonical is read to its value. -/
theorem test_decode_noncanonical : decode [0x03#8, 0x81#8, 0x00#8, 0xAA#8] = .ok (.frmEnc [0xAA#8]) := by decide

/-- R89 in the other direction, and 95 L2.7 `HDR_DEC [0x80]×10`. -/
theorem test_encode :
    encode (.hdrEnc 1000#64) = [0x01#8, 0xE8#8, 0x03#8, 0#8, 0#8, 0#8, 0#8, 0#8, 0#8] ∧
    encode (.hdrDec (conts 10)) = [0x02#8, 0x0A#8] ++ conts 10 ∧
    encode (.frmEnc [0x74#8, 0x65#8, 0x73#8, 0x74#8]) = [0x03#8, 0x04#8, 0x74#8, 0x65#8, 0x73#8, 0x74#8] := by decide

/-- 95 F12 to F17, and the empty command (R85). -/
theorem test_decode_illegal :
    decode [] = .error .emptyCommand ∧
    decode [0x00#8] = .error (.unassignedOpcode 0x00#8) ∧
    decode [0x05#8] = .error (.unassignedOpcode 0x05#8) ∧
    decode [0x01#8, 0x00#8] = .error .wrongLength ∧
    decode [0x10#8, 0x00#8] = .error .wrongLength ∧
    decode [0x04#8, 0x02#8, 0x10#8] = .error .badFraming ∧
    decode [0x30#8] = .error .wrongLength ∧
    decode [0x30#8, 0x06#8] = .error (.reservedRegister 0x06#8) := by decide

/-- Two commands written back to back (R88). -/
theorem test_split :
    splitCommand [0x02#8, 0x01#8, 0xAC#8, 0x30#8, 0x00#8] = some ([0x02#8, 0x01#8, 0xAC#8], [0x30#8, 0x00#8]) := by
  decide

/-- The words of the opcode table, operand bits 0 (log entry 12). -/
theorem test_table_words :
    decodeTableWord 8 0x01 = some (.hdrEnc 0#64) ∧ decodeTableWord 8 0x02 = some (.hdrDec []) ∧
    decodeTableWord 8 0x03 = some (.frmEnc []) ∧ decodeTableWord 8 0x04 = some (.frmDec []) ∧
    decodeTableWord 8 0x10 = some .scan ∧ decodeTableWord 8 0x11 = some .frameRd ∧
    decodeTableWord 8 0x12 = some .srcerrRd ∧ decodeTableWord 8 0x20 = some (.cfgLimit 0#64) ∧
    decodeTableWord 8 0x21 = some (.cfgChunk 0#64) ∧ decodeTableWord 8 0x30 = some (.regRd 0#8) ∧
    decodeTableWord 16 0x0430 = some (.regRd 4#8) ∧ decodeTableWord 8 0x05 = none := by decide

/-- A placed word is the command of the very next step. -/
theorem test_withFetchWord :
    answers (step (State.reset.withFetchWord 8 0x01)) = some [.hdrEnc [0x00#8]] ∧
    answers (step (State.reset.withFetchWord 16 0x0130)) = some [.regRd 0#64] := by decide

/- ## The header and frame codec (95 L1, L2.1 to L2.4) -/

theorem test_hdrEnc :
    answers (exec (.hdrEnc 200#64) fresh) = some [.hdrEnc [0xC8#8, 0x01#8]] ∧
    answers (exec (.hdrEnc 0x7FFFFFFFFFFFFFFF#64) fresh) = some [.hdrEnc (List.replicate 8 0xFF#8 ++ [0x7F#8])] := by
  decide

/-- 95 F18. -/
theorem test_hdrEnc_range : raised (exec (.hdrEnc 0x8000000000000000#64) fresh) = some .lengthRange := by decide

theorem test_hdrDec :
    answers (exec (.hdrDec [0xE8#8, 0x07#8]) fresh) = some [.hdrDec .none 2#64 1000#64] ∧
    answers (exec (.hdrDec [0x80#8, 0x00#8]) fresh) = some [.hdrDec .none 2#64 0#64] := by decide

/-- The outcomes at the edge (R105, R106): nine bytes, and nine bytes with a tenth. -/
theorem test_hdrDec_edge :
    hdrDecode (conts 9) = .insufficient ∧ hdrDecode (conts 9 ++ [0x00#8]) = .tooLarge ∧
    hdrDecode (conts 8 ++ [0x00#8]) = .ok 9 0#64 := by decide

theorem test_frmEnc :
    answers (exec (.frmEnc [0x74#8, 0x65#8, 0x73#8, 0x74#8]) fresh) =
      some [.frmEnc [0x04#8, 0x74#8, 0x65#8, 0x73#8, 0x74#8]] ∧
    hdrEncode 128#64 = [0x80#8, 0x01#8] := by decide

theorem test_frmDec :
    answers (exec (.frmDec [0x81#8, 0x00#8, 0xAA#8]) fresh) = some [.frmDec .none [0xAA#8] 2#64 3#64] ∧
    answers (exec (.frmDec [0x01#8, 0xAA#8, 0xBB#8]) fresh) = some [.frmDec .none [0xAA#8] 1#64 2#64] := by decide

/-- R123: the sum `h + n` does not wrap. -/
theorem test_frmDec_errors :
    frmDecode (List.replicate 8 0xFF#8 ++ [0x7F#8]) = .insufficient ∧ frmDecode [] = .headerInsufficient ∧
    frmDecode (conts 10) = .headerTooLarge := by decide

/- ## The scanner (95 L2.5) -/

/-- R144: the accepting step. -/
theorem test_scan_accepts : (after (exec .scan (emitted [0x41#8]))).map (fun t => (t.fsm, t.frameValid, t.sent)) =
    some (.eval, false, []) := by decide

/-- R155 and 95 F19. -/
theorem test_scan_again :
    answers (exec .scan (finished .none)) = some [.scan false] ∧
    raised (exec .scan (waiting [])) = some .busyViolation := by decide

/-- 95 S8: a frame of exactly LIMIT bytes is emitted, and the later byte is kept. -/
theorem test_emit : (after (step { scanning [0x01#8, 0x41#8, 0x00#8] with limit := 2#64 })).map
    (fun t => (t.fsm, t.frame, t.buf, t.sent)) = some (.idle, [0x41#8], [0x00#8], [.scan true]) := by decide

/-- 95 S7a, S6a, S6b and S14: where LIMIT ends a scan, and where the too-large header does. -/
theorem test_limit :
    (after (step { scanning [0x04#8] with limit := 4#64 })).map (fun t => t.err) = some .limitExceeded ∧
    (after (step { scanning (conts 9) with limit := 8#64 })).map (fun t => t.err) = some .limitExceeded ∧
    (after (step { scanning (conts 10) with limit := 8#64 })).map (fun t => t.err) = some .limitExceeded ∧
    (after (step { scanning (conts 9 ++ [0x00#8]) with limit := 9#64 })).map (fun t => t.err) = some .headerTooLarge := by
  decide

/-- 95 S2, S4 and S9b: the latched signal, once more bytes are needed. -/
theorem test_signal :
    (after (step { scanning [0x03#8, 0x41#8] with pending := .eof })).map (fun t => t.err) = some .endMidFrame ∧
    (after (step { scanning [] with pending := .eof })).map (fun t => t.err) = some .none ∧
    (after (step { scanning [0x02#8, 0x41#8] with pending := .err, srcErr := some ⟨1⟩ })).map (fun t => t.err) =
      some .sourceError := by decide

/-- 95 S15: a complete frame wins over a latched signal. -/
theorem test_frame_before_signal :
    answers (step { scanning [0x00#8] with pending := .eof }) = some [.scan true] := by decide

/-- R153: the bytes and the signal of one response. -/
theorem test_response : (after (step (waiting [⟨[0x01#8, 0x41#8], .err ⟨7⟩⟩]))).map
    (fun t => (t.fsm, t.buf, t.pending, t.srcErr)) = some (.eval, [0x01#8, 0x41#8], .err, some ⟨7⟩) := by decide

/-- 95 F22 and F23. -/
theorem test_source_faults :
    raised (step (waiting [⟨conts 5, .ok⟩])) = some .sourceOverrun ∧
    raised (step { fresh with script := [⟨[], .ok⟩], turns := [.source] }) = some .sourceUnsolicited := by decide

/- ## Control (95 L2.6) -/

/-- F1, F6. -/
theorem test_cfgLimit :
    (after (exec (.cfgLimit 32#64) fresh)).map (fun t => (t.limit, t.sent)) = some (32#64, [.cfgLimit]) ∧
    raised (exec (.cfgLimit 8#64) (emitted [])) = some .configAfterStart := by decide

/-- F3, F4. -/
theorem test_cfgChunk :
    (after (exec (.cfgChunk 1#64) fresh)).map (fun t => (t.chunk, t.sent)) = some (1#64, [.cfgChunk]) ∧
    raised (exec (.cfgChunk 0#64) fresh) = some .configInvalid := by decide

/-- F21; STATUS 0x0A, 0xC6, 0xD6 and 0xE6 (95, Notation). -/
theorem test_regRd_status :
    answers (issue [0x30#8, 0x00#8] (waiting [])) = some [.regRd 0x83#64] ∧
    statusWord (emitted []) = 0x0A#64 ∧ statusWord (finished .limitExceeded) = 0xC6#64 ∧
    statusWord { finished .none with pending := .eof } = 0xD6#64 ∧
    statusWord { finished .sourceError with pending := .err } = 0xE6#64 := by decide

/-- P4 lines 4 and 5, F9. -/
theorem test_regRd :
    answers (exec (.regRd 1#8) (finished .limitExceeded)) = some [.regRd 4#64] ∧
    answers (exec (.regRd 4#8) (scanning [0x04#8])) = some [.regRd 1#64] ∧
    raised (exec (.regRd 5#8) fresh) = some .frameInvalid := by decide

/-- P3 line 5, F10. -/
theorem test_frameRd :
    answers (exec .frameRd (emitted [0x41#8])) = some [.frameRd [0x41#8]] ∧
    raised (exec .frameRd fresh) = some .frameInvalid := by decide

/-- P5 line 8, S16. -/
theorem test_srcerrRd :
    answers (exec .srcerrRd { finished .sourceError with pending := .err, srcErr := some ⟨1⟩ }) =
      some [.srcerrRd (some ⟨1⟩)] ∧
    answers (exec .srcerrRd { finished .headerTooLarge with pending := .err, srcErr := some ⟨2⟩ }) =
      some [.srcerrRd none] := by decide

/-- F12 and F20: a command in the bytes of the host. -/
theorem test_command_faults :
    raised (issue [0x30#8, 0x06#8] fresh) = some .illegalCommand ∧
    raised (issue [0x11#8] (waiting [])) = some .busyViolation ∧
    raised (issue [0x12#8] (waiting [])) = some .busyViolation := by decide

/-- F26 and R231: a fault stops everything but a reset. -/
theorem test_fault_and_reset :
    after (issue [0x10#8] { fresh with fault := some .frameInvalid }) = none ∧
    (after (step { finished .endMidFrame with fault := some .frameInvalid, turns := [.reset []] })).map
      (fun t => (t.fsm, t.err, t.started, t.fault)) = some (.idle, .none, false, none) := by decide

/- ## Witnesses of the hypotheses of the obligations, in their order -/

theorem test_witness_DecodeOfEncodeIsIdentity :
    wellFormed (.hdrEnc 0xFFFFFFFFFFFFFFFF#64) = true ∧ wellFormed (.hdrDec []) = true ∧
    wellFormed (.frmEnc [0xAA#8]) = true ∧ wellFormed (.frmDec (conts 10)) = true ∧ wellFormed .scan = true ∧
    wellFormed .frameRd = true ∧ wellFormed .srcerrRd = true ∧ wellFormed (.cfgLimit 0#64) = true ∧
    wellFormed (.cfgChunk 0#64) = true ∧ wellFormed (.regRd 5#8) = true := by decide

/-- The host moves in this state, and issues `c`. -/
def issuing (c : Bytes) : State := { fresh with cmds := [c] }

theorem test_witness_IllegalCommandsFault :
    (fresh.fault = none ∧ 5 < (6#8 : Byte).toNat ∧ 5 < (255#8 : Byte).toNat) ∧
    (issuing [0x05#8]).fault = none ∧ nextTurn (issuing [0x05#8]) = some .host ∧
    (issuing [0x05#8]).cmds = [0x05#8] :: [] ∧ ¬ LegalForm [0x05#8] := by
  refine ⟨by decide, by decide, by decide, by decide, ?_⟩
  rintro ⟨code, operand, h, h2⟩
  obtain ⟨rfl, rfl⟩ := List.cons.inj h
  simp at h2

theorem test_witness_U64OperandIsLittleEndian :
    (([0#8, 0#8, 0#8, 0#8, 0#8, 0#8, 0#8, 0x80#8] : Bytes).length = 8) ∧
    (0x01#8, Instr.hdrEnc) ∈ [(0x01#8, Instr.hdrEnc), (0x20#8, Instr.cfgLimit), (0x21#8, Instr.cfgChunk)] ∧
    (0x20#8, Instr.cfgLimit) ∈ [(0x01#8, Instr.hdrEnc), (0x20#8, Instr.cfgLimit), (0x21#8, Instr.cfgChunk)] ∧
    (0x21#8, Instr.cfgChunk) ∈ [(0x01#8, Instr.hdrEnc), (0x20#8, Instr.cfgLimit), (0x21#8, Instr.cfgChunk)] := by
  refine ⟨by decide, ?_, ?_, ?_⟩ <;> simp

/-- A canonical and a non-canonical framing header, the empty operand, an operand that frames nothing, and the longest value. -/
theorem test_witness_BytesOperandIsTheFramedPayload :
    ((0x02#8, Instr.hdrDec) ∈ [(0x02#8, Instr.hdrDec), (0x03#8, Instr.frmEnc), (0x04#8, Instr.frmDec)]) ∧
    (hdrDecode [0x01#8, 0xAA#8] = .ok 1 1#64 ∧ [0x01#8, 0xAA#8].length = 1 + (1#64 : Word).toNat) ∧
    (hdrDecode [0x80#8, 0x00#8] = .ok 2 0#64 ∧ [0x80#8, 0x00#8].length = 2 + (0#64 : Word).toNat) ∧
    (¬ ∃ (h : Nat) (len : Word), hdrDecode [] = .ok h len ∧ ([] : Bytes).length = h + len.toNat) ∧
    (List.replicate Config.maxLen (0#8 : Byte)).length ≤ Config.maxLen := by
  refine ⟨by simp, by decide, by decide, ?_, by simp⟩
  rintro ⟨h, len, h1, -⟩
  have : hdrDecode [] = .insufficient := by decide
  rw [this] at h1; cases h1

theorem test_witness_CommandsAreSelfDelimiting :
    decode [0x03#8, 0x01#8, 0xAA#8] = .ok (.frmEnc [0xAA#8]) ∧ decode [0x10#8] = .ok .scan := by decide

/-- For HdrEncodeLengthIsMinimal, HdrEncodeBytesAreTheDigits and HdrRoundTrip: both ends of the range, and a byte of each position of a
two-byte header. -/
theorem test_witness_HdrEncode :
    (0#64 : Word).toNat ≤ Config.maxLen ∧ (0x7FFFFFFFFFFFFFFF#64 : Word).toNat ≤ Config.maxLen ∧
    (hdrEncode 0).length = 1 ∧ (hdrEncode 0x7FFFFFFFFFFFFFFF#64).length = 9 ∧
    0 < (hdrEncode 128#64).length ∧ 1 < (hdrEncode 128#64).length := by decide

theorem test_witness_HdrDecodeIsPrefixStable :
    hdrDecode (conts 8 ++ [0x01#8]) = .ok 9 (1#64 <<< 56) ∧ hdrDecode (conts 10) = .tooLarge := by decide

theorem test_witness_HdrReencode :
    (hdrDecode [0xC8#8, 0x01#8] = .ok 2 200#64 ∧ Canonical ([0xC8#8, 0x01#8].take 2)) ∧
    (hdrDecode [0x80#8, 0x00#8] = .ok 2 0#64 ∧ ¬ Canonical ([0x80#8, 0x00#8].take 2)) := by
  refine ⟨⟨by decide, .inr ⟨0x01#8, by decide, by decide⟩⟩, by decide, ?_⟩
  rintro (h | ⟨b, hb, hd⟩)
  · exact absurd h (by decide)
  · cases hb; exact hd (by decide)

theorem test_witness_HdrEncResponds :
    fresh.fault = none ∧ (0x7FFFFFFFFFFFFFFF#64 : Word).toNat ≤ Config.maxLen ∧
    Config.maxLen < (0x8000000000000000#64 : Word).toNat := by decide

/-- Every row of HDR_DEC has an operand. Also for HdrDecStatusByOperand. -/
theorem test_witness_HdrDecResponds :
    fresh.fault = none ∧ hdrDecode [0x05#8, 0xFF#8] = .ok 1 5#64 ∧ hdrDecode [] = .insufficient ∧
    hdrDecode (conts 10) = .tooLarge := by decide

/-- Also for FrameRoundTrip. -/
theorem test_witness_FrmEncResponds :
    fresh.fault = none ∧ (List.replicate Config.maxLen (0#8 : Byte)).length ≤ Config.maxLen ∧
    Config.maxLen < (List.replicate (2 ^ 63) (0#8 : Byte)).length := by
  refine ⟨rfl, by simp, by rw [List.length_replicate]; decide⟩

/-- Every row of FRM_DEC has an operand; the last two differ by one byte. -/
theorem test_witness_FrmDecResponds :
    fresh.fault = none ∧ hdrDecode [0x80#8] = .insufficient ∧ hdrDecode (conts 10) = .tooLarge ∧
    (hdrDecode [0x01#8] = .ok 1 1#64 ∧ [0x01#8].length < 1 + (1#64 : Word).toNat) ∧
    (hdrDecode [0x01#8, 0xAA#8] = .ok 1 1#64 ∧ 1 + (1#64 : Word).toNat ≤ [0x01#8, 0xAA#8].length) := by decide

/-- A prefix that ends inside the header, and one that does not. -/
theorem test_witness_FrameTruncationIsDetected :
    [0xAA#8].length ≤ Config.maxLen ∧ frmEncode [0xAA#8] = [] ++ [0x01#8, 0xAA#8] ∧
    frmEncode [0xAA#8] = [0x01#8] ++ [0xAA#8] ∧ [0xAA#8] ≠ [] ∧ [0x01#8, 0xAA#8] ≠ [] := by decide

theorem test_witness_FrameDecodeAdvances :
    (10 ≤ (conts 10).length ∧ ∀ k, k < 9 → ((conts 10).getD k 0).getLsbD 7 = true) ∧
    frmDecode [0x00#8] = .ok [] 1 := by decide

theorem test_witness_CodecCommandsHoldNoState :
    ∃ i : Instr, (∃ L, i = .hdrEnc L) ∨ (∃ d, i = .hdrDec d) ∨ (∃ p, i = .frmEnc p) ∨ (∃ d, i = .frmDec d) :=
  ⟨.hdrEnc 0, .inl ⟨0, rfl⟩⟩

/-- Each clause's scanner state. -/
theorem test_witness_ScanIsAccepted :
    (fresh.fault = none ∧ fresh.fsm = .idle) ∧ ((finished .none).fault = none ∧ (finished .none).fsm = .done) ∧
    ((scanning []).fault = none ∧ (scanning []).fsm = .eval) ∧ ((waiting []).fault = none ∧ (waiting []).fsm = .waitRead) := by
  decide

/-- A frame of exactly LIMIT bytes. -/
theorem test_witness_EvalEmitsACompleteFrame :
    let s := { scanning [0x01#8, 0x41#8] with limit := 2#64 }
    s.fault = none ∧ nextTurn s = some .scanner ∧ s.fsm = .eval ∧ hdrDecode s.buf = .ok 1 1#64 ∧
    1 + (1#64 : Word).toNat ≤ s.limit.toNat ∧ 1 + (1#64 : Word).toNat ≤ s.buf.length := by decide

/-- The three limit cases, each at its edge, and a state in none of them. -/
theorem test_witness_LimitExceededExactlyThen :
    ((scanning []).fault = none ∧ nextTurn (scanning []) = some .scanner ∧ (scanning []).fsm = .eval ∧
      (scanning []).err = .none) ∧
    LimitCase 1 [0x01#8] ∧ LimitCase 8 (conts 9) ∧ LimitCase 8 (conts 10) ∧ ¬ LimitCase 9 (conts 9) := by
  refine ⟨by decide, .inl ⟨1, 1#64, by decide, by decide⟩, .inr (.inl (by decide)), .inr (.inr (by decide)), ?_⟩
  have h : hdrDecode (conts 9) = .insufficient := by decide
  rintro (⟨a, n, h1, -⟩ | ⟨-, h1⟩ | ⟨h1, -⟩)
  · rw [h] at h1; cases h1
  · exact absurd h1 (by decide)
  · rw [h] at h1; cases h1

theorem test_witness_TooLargeHeaderTerminates :
    let s := { scanning (conts 10) with limit := 9#64 }
    s.fault = none ∧ nextTurn s = some .scanner ∧ s.fsm = .eval ∧ 9 ≤ s.limit.toNat ∧ 10 ≤ s.buf.length ∧
    ∀ k, k < 9 → (s.buf.getD k 0).getLsbD 7 = true := by decide

/-- An undecided buffer of exactly LIMIT bytes of a header, one byte short of a frame of LIMIT bytes, and the empty one; with and
without a signal. -/
theorem test_witness_UndecidedBufferNeedsMore :
    ((scanning []).fault = none ∧ nextTurn (scanning []) = some .scanner ∧ (scanning []).fsm = .eval ∧
      (scanning []).pending = .none ∧ ({ scanning [] with pending := .err } : State).pending ≠ .none) ∧
    Undecided 16 [] ∧ Undecided 9 (conts 9) ∧ Undecided 2 [0x01#8] := by
  refine ⟨by decide, ?_, ?_, ?_⟩
  · simp [Undecided, show hdrDecode [] = .insufficient from by decide]
  · unfold Undecided
    rw [show hdrDecode (conts 9) = .insufficient from by decide]
    decide
  · simp [Undecided, show hdrDecode [0x01#8] = .ok 1 1#64 from by decide]

/-- A response of exactly the requested size, and one of a byte more. -/
theorem test_witness_ResponseIsTakenIn :
    let s := waiting [⟨conts 4, .eof⟩]
    s.fault = none ∧ nextTurn s = some .source ∧ s.script = ⟨conts 4, .eof⟩ :: [] ∧ s.fsm = .waitRead ∧
    s.req = some 4#64 ∧ (conts 4).length ≤ (4#64 : Word).toNat := by decide

theorem test_witness_SourceContractBreachesFault :
    (let s := waiting [⟨conts 5, .ok⟩]
     s.fault = none ∧ nextTurn s = some .source ∧ s.script = ⟨conts 5, .ok⟩ :: [] ∧ s.req = some 4#64 ∧
     (4#64 : Word).toNat < (conts 5).length) ∧
    (let s := { fresh with script := [⟨[], .ok⟩], turns := [.source] }
     s.fault = none ∧ nextTurn s = some .source ∧ s.script = ⟨[], .ok⟩ :: [] ∧ s.req = none) := by decide

/-- The states of this file that obey the invariants. -/
theorem test_waiting_inv (script : List SrcResponse) (turns : List Turn) (cmds : List Bytes) :
    Inv { waiting script with turns := turns, cmds := cmds } where
  reqIffWait := by simp [waiting]
  validIdle := by simp [waiting, fresh, State.reset]
  errDone := by simp [waiting, fresh, State.reset]
  startedUnlessIdle := by simp [waiting]
  pendingNotWait := by simp [waiting, fresh, State.reset]
  srcErrIffErr := by simp [waiting, fresh, State.reset]
  bufBound := by simp [waiting, fresh, State.reset]
  reqIsChunk := by simp [waiting, fresh]
  chunkPos := by simp [waiting, fresh]
  waitUndecided := by
    simp [waiting, fresh, State.reset, Undecided, show hdrDecode [] = .insufficient from by decide]
  emptyUnstarted := by simp [waiting]
  errCodes := by simp [waiting, fresh, State.reset]

theorem test_finished_inv (turns : List Turn) (cmds : List Bytes) :
    Inv { finished .endMidFrame with turns := turns, cmds := cmds } where
  reqIffWait := by simp [finished, fresh, State.reset]
  validIdle := by simp [finished, fresh, State.reset]
  errDone := by simp [finished]
  startedUnlessIdle := by simp [finished]
  pendingNotWait := by simp [finished]
  srcErrIffErr := by simp [finished, fresh, State.reset]
  bufBound := by simp [finished, fresh, State.reset]
  reqIsChunk := by simp [finished, fresh, State.reset]
  chunkPos := by simp [finished, fresh]
  waitUndecided := by simp [finished]
  emptyUnstarted := by simp [finished]
  errCodes := by simp [finished]

theorem test_fresh_inv (turns : List Turn) (cmds : List Bytes) : Inv { fresh with turns := turns, cmds := cmds } where
  reqIffWait := by simp [fresh, State.reset]
  validIdle := by simp [fresh, State.reset]
  errDone := by simp [fresh, State.reset]
  startedUnlessIdle := by simp [fresh, State.reset]
  pendingNotWait := by simp [fresh, State.reset]
  srcErrIffErr := by simp [fresh, State.reset]
  bufBound := by simp [fresh, State.reset]
  reqIsChunk := by simp [fresh, State.reset]
  chunkPos := by simp [fresh]
  waitUndecided := by simp [fresh, State.reset]
  emptyUnstarted := by simp [fresh, State.reset]
  errCodes := by simp [fresh, State.reset]

theorem test_scanning_inv (turns : List Turn) : Inv { scanning [0x00#8] with turns := turns } where
  reqIffWait := by simp [scanning, fresh, State.reset]
  validIdle := by simp [scanning, fresh, State.reset]
  errDone := by simp [scanning, fresh, State.reset]
  startedUnlessIdle := by simp [scanning]
  pendingNotWait := by simp [scanning]
  srcErrIffErr := by simp [scanning, fresh, State.reset]
  bufBound := by simp [scanning, fresh]
  reqIsChunk := by simp [scanning, fresh, State.reset]
  chunkPos := by simp [scanning, fresh]
  waitUndecided := by simp [scanning]
  emptyUnstarted := by simp [scanning]
  errCodes := by simp [scanning, fresh, State.reset]

theorem test_witness_ZeroByteResponseIsAskedAgain :
    let s := { waiting [⟨[], .ok⟩] with turns := [.source, .scanner] }
    Inv s ∧ s.fault = none ∧ s.fsm = .waitRead ∧ s.script = ⟨[], .ok⟩ :: [] ∧ s.turns = .source :: .scanner :: [] :=
  ⟨test_waiting_inv _ _ [], rfl, rfl, rfl, rfl⟩

/-- The host moves while the scanner waits; and nobody is to move, whatever commands the host holds. -/
theorem test_witness_WaitEndsOnlyByAResponse :
    (let s := { waiting [] with cmds := [[0x30#8, 0x00#8]], turns := [.host] }
     s.fsm = .waitRead ∧ (after (step s)).isSome = true ∧ nextTurn s ≠ some .source ∧
     ∀ src, nextTurn s ≠ some (.reset src)) ∧
    (∀ cmds, let s := { waiting [] with cmds := cmds }
      s.fault = none ∧ s.fsm = .waitRead ∧ nextTurn s = none) := by
  refine ⟨⟨rfl, by decide, by decide, ?_⟩, fun _ => ⟨rfl, rfl, rfl⟩⟩
  intro src h; cases h

/-- A SCAN in DONE. Also for OnlyResetClears: `err` and `started` are set. -/
theorem test_witness_DoneIsAbsorbing :
    let s := { finished .endMidFrame with cmds := [[0x10#8]], turns := [.host] }
    Inv s ∧ s.fault = none ∧ s.fsm = .done ∧ (after (step s)).isSome = true ∧ ∀ src, nextTurn s ≠ some (.reset src) := by
  refine ⟨test_finished_inv _ _, rfl, rfl, by decide, ?_⟩
  intro src h; cases h

/-- One step of each kind from a state that obeys the invariants: for EveryStepKeepsInvariants, ScannerTransitions, OnlyResetClears and
FlagsChangeOnlyAsNamed. -/
theorem test_witness_steps_with_Inv :
    (Inv { fresh with cmds := [[0x10#8]], turns := [.host] } ∧
      (after (step { fresh with cmds := [[0x10#8]], turns := [.host] })).map (fun t => (t.fsm, busy t, t.started)) =
        some (.eval, true, true)) ∧
    (Inv { scanning [0x00#8] with turns := [.scanner] } ∧
      (after (step { scanning [0x00#8] with turns := [.scanner] })).map (fun t => (t.fsm, busy t, t.frameValid)) =
        some (.idle, false, true)) ∧
    (Inv { waiting [⟨[], .eof⟩] with turns := [.source], cmds := [] } ∧
      (after (step { waiting [⟨[], .eof⟩] with turns := [.source], cmds := [] })).map (fun t => (t.fsm, t.pending)) =
        some (.eval, .eof)) ∧
    (Inv { finished .endMidFrame with turns := [.reset []], cmds := [] } ∧
      (after (step { finished .endMidFrame with turns := [.reset []], cmds := [] })).map (fun t => (t.fsm, t.err)) =
        some (.idle, .none)) :=
  ⟨⟨test_fresh_inv _ _, by decide⟩, ⟨test_scanning_inv _, by decide⟩, ⟨test_waiting_inv _ _ _, by decide⟩,
    test_finished_inv _ _, by decide⟩

theorem test_witness_EmittedFramesFitTheLimit :
    (scanning [0x00#8]).frameValid = false ∧
    (after (step (scanning [0x00#8]))).map (fun t => t.frameValid) = some true := by decide

/-- A step that takes a frame out of the stream, and one that takes nothing. -/
theorem test_witness_StreamIsConserved :
    (∀ s ∈ [scanning [0x00#8, 0x01#8], waiting [⟨[0x01#8], .ok⟩]],
      (after (step s)).map (fun t => t.fault) = some none) ∧
    (∀ s ∈ [scanning [0x00#8, 0x01#8], waiting [⟨[0x01#8], .ok⟩]], ∀ src, nextTurn s ≠ some (.reset src)) := by
  refine ⟨by decide, ?_⟩
  intro s hs src
  simp only [List.mem_cons, List.not_mem_nil, or_false] at hs
  obtain rfl | rfl := hs <;> intro h <;> cases h

/-- 95 S1 with CHUNK 4, a response without bytes among them: the SCAN in progress. -/
theorem test_witness_ScanMatchesReference :
    let s := { scanning [] with
      script := [⟨[0x01#8, 0x41#8, 0x00#8, 0x02#8], .ok⟩, ⟨[], .ok⟩, ⟨[0x42#8, 0x43#8], .eof⟩] }
    s.fault = none ∧ s.fsm = .eval ∧ s.turns = [] ∧ Awaits .eof s := by
  refine ⟨rfl, rfl, rfl, .inl ⟨rfl, by decide, ?_⟩⟩
  simp [Faithful, scanning, fresh]

/-- The other two ways to wait for the end: the signal is latched already. -/
theorem test_witness_Awaits_latched :
    Awaits .eof { scanning [] with pending := .eof } ∧
    Awaits (.err ⟨1⟩) { scanning [] with pending := .err, srcErr := some ⟨1⟩ } :=
  ⟨.inr (.inl ⟨rfl, rfl, rfl⟩), .inr (.inr ⟨rfl, rfl, ⟨1⟩, rfl, rfl⟩)⟩

/-- A buffer one byte short of LIMIT + 1, and one response left. -/
theorem test_witness_ScanRespondsWithinTheLimit :
    let s := { scanning [0x80#8] with limit := 1#64, script := [⟨[0x80#8], .ok⟩] }
    s.fault = none ∧ s.fsm = .eval ∧ s.turns = [] ∧
    (∀ r ∈ s.script, 1 ≤ r.data.length ∧ r.data.length ≤ s.chunk.toNat) ∧
    s.limit.toNat < s.buf.length + s.script.length := by
  refine ⟨rfl, rfl, rfl, ?_, by decide⟩
  intro r hr
  simp only [List.mem_singleton] at hr
  subst hr; decide

/-- One frame and then the beginning of another, ended by a source error. -/
theorem test_witness_ScanSequenceMatchesScanSpec :
    let s := { fresh with
      script := [⟨[0x01#8, 0x41#8], .ok⟩, ⟨[0x05#8, 0x42#8], .err ⟨1⟩⟩], cmds := [[0x10#8], [0x11#8], [0x10#8]] }
    s.fault = none ∧ s.fsm = .idle ∧ s.turns = [] ∧ Awaits (.err ⟨1⟩) s ∧
    scanSpec ((s.buf ++ streamBytes s.script).length + 1) (s.buf ++ streamBytes s.script) (.err ⟨1⟩) s.limit.toNat =
      some ([[0x41#8]], .sourceError, some ⟨1⟩) ∧
    s.cmds = ([[0x41#8]].flatMap fun (_ : Bytes) => [[0x10#8], [0x11#8]]) ++ [[0x10#8]] := by
  refine ⟨rfl, rfl, rfl, .inl ⟨rfl, by decide, ?_⟩, by decide, by decide⟩
  simp [Faithful, fresh]

/-- 95 L1.11 (c), the three payloads "A", nothing and "BC" in one response. -/
theorem test_witness_EncodedPayloadsAreReplayed :
    let payloads : List Bytes := [[0x41#8], [], [0x42#8, 0x43#8]]
    let s := { fresh with
      chunk := 100#64, script := [⟨[0x01#8, 0x41#8, 0x00#8, 0x02#8, 0x42#8, 0x43#8], .eof⟩],
      cmds := [[0x10#8], [0x11#8], [0x10#8], [0x11#8], [0x10#8], [0x11#8], [0x10#8]] }
    s.fault = none ∧ s.fsm = .idle ∧ s.turns = [] ∧ Awaits .eof s ∧
    s.buf ++ streamBytes s.script = payloads.flatMap frmEncode ∧
    (∀ p ∈ payloads, p.length ≤ Config.maxLen ∧ (frmEncode p).length ≤ s.limit.toNat) ∧
    s.cmds = (payloads.flatMap fun _ => [[0x10#8], [0x11#8]]) ++ [[0x10#8]] := by
  refine ⟨rfl, rfl, rfl, .inl ⟨rfl, by decide, ?_⟩, by decide, by decide, by decide⟩
  simp [Faithful]

/-- Each clause of CfgLimitWritesLimit and of CfgChunkWritesChunk. -/
theorem test_witness_Cfg :
    (fresh.fault = none ∧ busy fresh = false ∧ fresh.started = false) ∧ (1#64 : Word) ≠ 0 ∧
    ((waiting []).fault = none ∧ busy (waiting []) = true ∧ busy (scanning []) = true) ∧
    ((emitted []).fault = none ∧ busy (emitted []) = false ∧ (emitted []).started = true) := by decide

theorem test_witness_ConfigurationLocksAtTheFirstScan :
    let s := { emitted [] with cmds := [[0x20#8, 0x08#8, 0#8, 0#8, 0#8, 0#8, 0#8, 0#8, 0#8]] }
    s.started = true ∧ (after (step s)).isSome = true ∧ ∀ src, nextTurn s ≠ some (.reset src) := by
  refine ⟨rfl, by decide, ?_⟩
  intro src h; cases h

/-- Each clause of REG_RD (RegRdRespondsTheRegister, StatusFields), FRAME_RD and SRCERR_RD. -/
theorem test_witness_Reads :
    (fresh.fault = none ∧ fresh.frameValid = false ∧ busy fresh = false ∧ fresh.buf.length < 2 ^ 64) ∧
    ((emitted []).fault = none ∧ (emitted []).frameValid = true ∧ busy (emitted []) = false ∧
      (emitted []).frame.length < 2 ^ 64) ∧
    ((waiting []).fault = none ∧ busy (waiting []) = true) ∧
    5 < (6#8 : Byte).toNat := by decide

theorem test_witness_BusyViolations :
    (waiting []).fault = none ∧ busy (waiting []) = true ∧ (∃ v, Instr.cfgLimit 1#64 = .cfgLimit v) ∧
    (∃ n, Instr.regRd 0#8 = .regRd n) := ⟨rfl, rfl, ⟨_, rfl⟩, ⟨_, rfl⟩⟩

theorem test_witness_HostStepsDuringAScanWriteNoRegister :
    let s := { waiting [] with cmds := [[0x04#8, 0x01#8, 0x00#8]], turns := [.host] }
    busy s = true ∧ nextTurn s = some .host ∧ (after (step s)).isSome = true := by decide

/-- A read that answers, and one that faults. -/
theorem test_witness_RegisterReadsHaveNoSideEffect :
    (after (exec .frameRd (emitted []))).map (fun t => t.fault) = some none ∧
    (after (exec .frameRd fresh)).map (fun t => t.fault) = some (some .frameInvalid) ∧
    (after (exec (.regRd 4#8) fresh)).map (fun t => t.fault) = some none ∧
    (after (exec .srcerrRd fresh)).map (fun t => t.fault) = some none := by decide

/-- The flag clauses that `test_witness_steps_with_Inv` does not meet: a termination, an acceptance that clears `frame_valid`, and a
latched signal that stays. -/
theorem test_witness_FlagsChangeOnlyAsNamed :
    (after (step { scanning [0x05#8] with limit := 1#64 })).map (fun t => (t.fsm, busy t)) = some (.done, false) ∧
    ((emitted []).frameValid = true ∧
      (after (issue [0x10#8] (emitted []))).map (fun t => t.frameValid) = some false) ∧
    (after (step { scanning [0x05#8] with pending := .eof })).map (fun t => t.pending) = some .eof := by decide

theorem test_witness_FaultsAreSticky :
    (fresh.fault = none ∧ (after (issue [0x11#8] fresh)).map (fun t => t.fault) = some (some .frameInvalid)) ∧
    (let s := { fresh with fault := some .frameInvalid, turns := [.source] }
     s.fault = some .frameInvalid ∧ ∀ src, nextTurn s ≠ some (.reset src)) := by
  refine ⟨by decide, rfl, ?_⟩
  intro src h; cases h

theorem test_witness_ResetSetsEveryRegister :
    nextTurn { waiting [] with fault := some .sourceOverrun, turns := [.reset [⟨[], .eof⟩]] } =
      some (.reset [⟨[], .eof⟩]) := by decide

theorem test_witness_StepRunsTheDecodedCommand :
    let s := issuing [0x30#8, 0x00#8]
    s.fault = none ∧ nextTurn s = some .host ∧ s.cmds = [0x30#8, 0x00#8] :: [] ∧
    decode [0x30#8, 0x00#8] = .ok (.regRd 0x00#8) := by decide

end Sys2Proof.Tests
end

section
/-! The registers after reset (10_state.md R41). Only `CHUNK` needs an argument: its reset value is an open parameter, and R11
bounds it from below. -/

namespace Sys2Proof.Machine

/-- No draw wraps around: the remainder plus one is below `2^64`. -/
theorem chunkReset_toNat : Config.chunkReset.toNat = Config.chunkResetDraw % (2 ^ 64 - 1) + 1 := by
  have hdraw : Config.chunkResetDraw % (2 ^ 64 - 1) < 2 ^ 64 - 1 := Nat.mod_lt _ (by decide)
  rw [Config.chunkReset, BitVec.toNat_ofNat]
  exact Nat.mod_eq_of_lt (by omega)

/-- R11: `CHUNK_RESET` is at least 1, whatever it is drawn as. -/
theorem one_le_chunkReset_toNat : 1 ≤ Config.chunkReset.toNat :=
  chunkReset_toNat ▸ Nat.le_add_left 1 _

/-- R35 at reset: every field of STATUS is 0. -/
@[simp] theorem statusWord_reset : statusWord State.reset = 0 := rfl

/-- R36 at reset: `NONE` has the number 0. -/
@[simp] theorem errWord_reset : errWord State.reset = 0 := rfl

/-- Settles O56: the plain registers hold the values R41 writes, `CHUNK` is at least 1 by R11, and STATUS and ERR read 0. -/
theorem resetValues : Obligations.ResetValues :=
  ⟨rfl, rfl, rfl, rfl, one_le_chunkReset_toNat, rfl, rfl, rfl, rfl, rfl, rfl, rfl, rfl, statusWord_reset, errWord_reset⟩

end Sys2Proof.Machine
end

section
/-! The state invariants (10_state.md R42 with R26, R29, R32, R163): what they say in each scanner state, that every operation
keeps them, and so does every move and every step. -/

namespace Sys2Proof.Machine

/- ## What the invariants say in one scanner state -/

theorem Inv.req_eq_none {s : State} (hi : Inv s) (h : s.fsm ≠ .waitRead) : s.req = none :=
  not_not.mp fun hr => h (hi.reqIffWait.mp hr)

theorem Inv.frameValid_eq_false {s : State} (hi : Inv s) (h : s.fsm ≠ .idle) : s.frameValid = false :=
  Bool.eq_false_iff.mpr fun hv => h (hi.validIdle hv)

theorem Inv.err_eq_none {s : State} (hi : Inv s) (h : s.fsm ≠ .done) : s.err = .none :=
  not_not.mp fun he => h (hi.errDone he)

theorem Inv.pending_eq_none {s : State} (hi : Inv s) (h : s.fsm = .waitRead) : s.pending = .none :=
  not_not.mp fun hp => hi.pendingNotWait hp h

theorem Inv.srcErr_eq_none {s : State} (hi : Inv s) (h : s.pending = .none) : s.srcErr = none :=
  not_not.mp fun he => by simpa [h] using hi.srcErrIffErr.mp he

theorem ne_waitRead_of_not_busy {s : State} (h : busy s = false) : s.fsm ≠ .waitRead := by
  obtain hf | hf := (not_busy_iff s).mp h <;> simp [hf]

/- ## Reset -/

/-- Settles O34: the registers are idle and empty, and `CHUNK_RESET` is at least 1 by R11. -/
theorem resetStateMeetsInvariants : Obligations.ResetStateMeetsInvariants where
  reqIffWait := by simp [State.reset]
  validIdle := by simp [State.reset]
  errDone := by simp [State.reset]
  startedUnlessIdle := by simp [State.reset]
  pendingNotWait := by simp [State.reset]
  srcErrIffErr := by simp [State.reset]
  bufBound := Nat.zero_le _
  reqIsChunk := by simp [State.reset]
  chunkPos h := by
    have hpos := one_le_chunkReset_toNat
    rw [show Config.chunkReset = 0 from h] at hpos
    exact absurd hpos (by decide)
  waitUndecided := by simp [State.reset]
  emptyUnstarted _ := rfl
  errCodes := .inl rfl

theorem sameRegisters_resetBlock (src : List SrcResponse) (s : State) : SameRegisters State.reset (resetBlock src s) := by
  constructor <;> rfl

theorem inv_resetBlock (src : List SrcResponse) (s : State) : Inv (resetBlock src s) :=
  inv_congr resetStateMeetsInvariants (sameRegisters_resetBlock src s)

/- ## The operations -/

/-- CFG_LIMIT and CFG_CHUNK run before the first SCAN only, with no request outstanding and the buffer empty. -/
theorem inv_configure {s : State} (hi : Inv s) (hb : busy s = false) (hs : s.started = false) (limit : Word)
    {chunk : Word} (hc : chunk ≠ 0) : Inv (setChunk chunk (setLimit limit s)) where
  reqIffWait := hi.reqIffWait
  validIdle := hi.validIdle
  errDone := hi.errDone
  startedUnlessIdle := hi.startedUnlessIdle
  pendingNotWait := hi.pendingNotWait
  srcErrIffErr := hi.srcErrIffErr
  bufBound := by simp [hi.emptyUnstarted hs]
  reqIsChunk := by simp [hi.req_eq_none (ne_waitRead_of_not_busy hb)]
  chunkPos := hc
  waitUndecided h := absurd h (ne_waitRead_of_not_busy hb)
  emptyUnstarted := hi.emptyUnstarted
  errCodes := hi.errCodes

theorem inv_setLimit {s : State} (hi : Inv s) (v : Word) (hb : busy s = false) (hs : s.started = false) :
    Inv (setLimit v s) :=
  inv_configure hi hb hs v hi.chunkPos

theorem inv_setChunk {s : State} (hi : Inv s) {v : Word} (hv : v ≠ 0) (hb : busy s = false) (hs : s.started = false) :
    Inv (setChunk v s) :=
  inv_configure hi hb hs s.limit hv

theorem inv_startScan {s : State} (hi : Inv s) (hf : s.fsm = .idle) : Inv (startScan s) where
  reqIffWait := by simp [hi.req_eq_none, hf]
  validIdle := by simp
  errDone := by simp [hi.err_eq_none, hf]
  startedUnlessIdle _ := rfl
  pendingNotWait := by simp
  srcErrIffErr := hi.srcErrIffErr
  bufBound := hi.bufBound
  reqIsChunk := hi.reqIsChunk
  chunkPos := hi.chunkPos
  waitUndecided := by simp
  emptyUnstarted := by simp
  errCodes := hi.errCodes

theorem inv_terminate {s : State} (hi : Inv s) (hf : s.fsm = .eval) {c : ErrCode}
    (hc : c = .none ∨ c = .headerTooLarge ∨ c = .limitExceeded ∨ c = .sourceError ∨ c = .endMidFrame) :
    Inv (terminate c s) where
  reqIffWait := by simp
  validIdle := by simp
  errDone _ := rfl
  startedUnlessIdle _ := hi.startedUnlessIdle (by simp [hf])
  pendingNotWait := by simp
  srcErrIffErr := hi.srcErrIffErr
  bufBound := hi.bufBound
  reqIsChunk := by simp
  chunkPos := hi.chunkPos
  waitUndecided := by simp
  emptyUnstarted := hi.emptyUnstarted
  errCodes := hc

theorem inv_emit {s : State} (hi : Inv s) (hf : s.fsm = .eval) (h n : Nat) : Inv (emit h n s) where
  reqIffWait := by simp [hi.req_eq_none, hf]
  validIdle _ := rfl
  errDone := by simp [hi.err_eq_none, hf]
  startedUnlessIdle := by simp
  pendingNotWait := by simp
  srcErrIffErr := hi.srcErrIffErr
  bufBound := by
    have hle := hi.bufBound
    simp only [emit_buf, emit_limit, emit_chunk, List.length_drop]
    omega
  reqIsChunk := hi.reqIsChunk
  chunkPos := hi.chunkPos
  waitUndecided := by simp
  emptyUnstarted hs := by simp [hi.emptyUnstarted hs]
  errCodes := hi.errCodes

/-- A request is sent in EVAL, for CHUNK bytes, without a latched signal and while the buffer decides nothing. -/
theorem inv_srcRequest {s : State} (hi : Inv s) (hf : s.fsm = .eval) (hp : s.pending = .none)
    (hu : Undecided s.limit.toNat s.buf) : Inv (srcRequest s.chunk s) where
  reqIffWait := by simp
  validIdle := by simp [hi.frameValid_eq_false, hf]
  errDone := by simp [hi.err_eq_none, hf]
  startedUnlessIdle _ := hi.startedUnlessIdle (by simp [hf])
  pendingNotWait := by simp [hp]
  srcErrIffErr := hi.srcErrIffErr
  bufBound := hi.bufBound
  reqIsChunk := by simp
  chunkPos := hi.chunkPos
  waitUndecided _ := hu
  emptyUnstarted := hi.emptyUnstarted
  errCodes := hi.errCodes

/-- The bytes of a response fit: the buffer was undecided, so within LIMIT, and at most CHUNK bytes were asked for (R163). -/
theorem inv_endWait {s : State} (hi : Inv s) {r : SrcResponse} {n : Word} (hr : s.req = some n)
    (hlen : r.data.length ≤ n.toNat) : Inv (endWait (latchSignal r.sig (bufAppend r.data s))) := by
  have hw : s.fsm = .waitRead := hi.reqIffWait.mp (by simp [hr])
  have hp : s.pending = .none := hi.pending_eq_none hw
  have hstarted : s.started = true := hi.startedUnlessIdle (by simp [hw])
  constructor
  case reqIffWait => simp
  case validIdle => simp [hi.frameValid_eq_false, hw]
  case errDone => simp [hi.err_eq_none, hw]
  case startedUnlessIdle => simp [hstarted]
  case pendingNotWait => simp
  case srcErrIffErr => cases hsig : r.sig <;> simp [hp, hi.srcErr_eq_none]
  case bufBound =>
    have hbuf : s.buf.length ≤ s.limit.toNat := undecided_length (hi.waitUndecided hw)
    have hn : n = s.chunk := hi.reqIsChunk n hr
    simp only [endWait_buf, endWait_limit, endWait_chunk, latchSignal_buf, latchSignal_limit, latchSignal_chunk,
      bufAppend_buf, bufAppend_limit, bufAppend_chunk, List.length_append, ← hn]
    omega
  case reqIsChunk => simp
  case chunkPos => simpa using hi.chunkPos
  case waitUndecided => simp
  case emptyUnstarted => simp [hstarted]
  case errCodes => simpa using hi.errCodes

/- ## The moves -/

theorem inv_needMore {s : State} (hi : Inv s) (hf : s.fsm = .eval) (hu : Undecided s.limit.toNat s.buf) :
    Inv (needMore s) := by
  obtain ⟨hp, h⟩ | ⟨-, h⟩ | ⟨-, -, h⟩ | ⟨-, -, h⟩ := needMore_cases s <;> rw [h]
  · exact inv_srcRequest hi hf hp hu
  · exact inv_terminate hi hf (by simp)
  · exact inv_terminate hi hf (by simp)
  · exact inv_terminate hi hf (by simp)

theorem inv_evalStep {s : State} (hi : Inv s) (hf : s.fsm = .eval) : Inv (evalStep s) := by
  obtain ⟨-, h⟩ | ⟨-, -, h⟩ | ⟨k, n, -, -, -, h⟩ | ⟨hu, h⟩ := evalStep_cases s <;> rw [h]
  · exact inv_terminate hi hf (by simp)
  · exact inv_terminate hi hf (by simp)
  · exact inv_emit hi hf k n.toNat
  · exact inv_needMore hi hf hu

theorem inv_takeResponse {s : State} (hi : Inv s) (r : SrcResponse) : Inv (takeResponse r s) := by
  obtain ⟨-, h⟩ | ⟨n, -, -, h⟩ | ⟨n, hr, hlen, h⟩ := takeResponse_cases r s <;> rw [h]
  · exact inv_congr hi (sameRegisters_raiseFault _ s)
  · exact inv_congr hi (sameRegisters_raiseFault _ s)
  · exact inv_endWait hi hr hlen

theorem inv_runCommand {c : Bytes} {s t : State} (hi : Inv s) (h : runCommand c s = .next t) : Inv t := by
  obtain ⟨-, ⟨f, rfl⟩ | ⟨r, -, rfl⟩ | ⟨v, hb, hs, rfl⟩ | ⟨v, hv, hb, hs, rfl⟩ | ⟨-, hf, rfl⟩⟩ := runCommand_cases h
  · exact inv_congr hi (sameRegisters_raiseFault f s)
  · exact inv_congr hi (sameRegisters_respond r s)
  · exact inv_congr (inv_setLimit hi v hb hs) (sameRegisters_respond _ _)
  · exact inv_congr (inv_setChunk hi hv hb hs) (sameRegisters_respond _ _)
  · exact inv_startScan hi hf

theorem inv_hostMove {s t : State} (hi : Inv s) (h : hostMove s = .next t) : Inv t := by
  obtain ⟨-, rfl⟩ | ⟨c, rest, -, hrun⟩ := hostMove_cases h
  · exact hi
  · exact inv_runCommand (inv_congr hi (sameRegisters_setCmds rest s)) hrun

theorem inv_sourceMove {s t : State} (hi : Inv s) (h : sourceMove s = .next t) : Inv t := by
  obtain ⟨-, rfl⟩ | ⟨r, rest, -, rfl⟩ := sourceMove_cases h
  · exact hi
  · exact inv_takeResponse (inv_congr hi (sameRegisters_setScript rest s)) r

theorem inv_scannerMove {s t : State} (hi : Inv s) (h : scannerMove s = .next t) : Inv t := by
  obtain ⟨-, rfl⟩ | ⟨hf, rfl⟩ := scannerMove_cases h
  · exact hi
  · exact inv_evalStep hi hf

/-- Settles O35, by the kinds of step: a reset makes the invariants hold, no move leaves them, and the move of each agent keeps
them. -/
theorem everyStepKeepsInvariants : Obligations.EveryStepKeepsInvariants := by
  intro s t hi h
  have hspent : Inv (spendTurn s) := inv_congr hi (sameRegisters_spendTurn s)
  obtain ⟨src, -, rfl⟩ | ⟨-, ⟨-, rfl⟩ | ⟨-, hm⟩ | ⟨-, hm⟩ | ⟨-, hm⟩⟩ := step_cases h
  · exact inv_resetBlock src _
  · exact hi
  · exact inv_hostMove hspent hm
  · exact inv_sourceMove hspent hm
  · exact inv_scannerMove hspent hm

end Sys2Proof.Machine
end

section
/-! The codec commands and the scanner's state (10_state.md R40): each is one response or one fault, fixed by the operand. -/

namespace Sys2Proof.Machine

/-- Settles O22, by the command: the two encoders respond or fault by their operand's size, the two decoders always respond. -/
theorem codecCommandsHoldNoState : Obligations.CodecCommandsHoldNoState := by
  rintro i (⟨L, rfl⟩ | ⟨d, rfl⟩ | ⟨p, rfl⟩ | ⟨d, rfl⟩)
  · by_cases hL : Config.maxLen < L.toNat
    · exact .inr ⟨.lengthRange, fun s hs => by rw [exec_hdrEnc, whenLive_live hs, if_pos hL]; rfl⟩
    · exact .inl ⟨.hdrEnc (hdrEncode L), fun s hs => by rw [exec_hdrEnc, whenLive_live hs, if_neg hL]; rfl⟩
  · exact .inl ⟨hdrDecResponse d, fun s hs => whenLive_live hs _⟩
  · by_cases hp : Config.maxLen < p.length
    · exact .inr ⟨.lengthRange, fun s hs => by rw [exec_frmEnc, whenLive_live hs, if_pos hp]; rfl⟩
    · exact .inl ⟨.frmEnc (frmEncode p), fun s hs => by rw [exec_frmEnc, whenLive_live hs, if_neg hp]; rfl⟩
  · exact .inl ⟨frmDecResponse d, fun s hs => whenLive_live hs _⟩

end Sys2Proof.Machine
end

section
/-! The configuration lock (10_state.md R25, R27; 70_reset_and_hazards.md R235): `started` shuts the two configuration commands
out, and no other move touches LIMIT, CHUNK or `started` once it is set. -/

namespace Sys2Proof.Machine

/-- LIMIT, CHUNK and `started` are the same. -/
def SameConfig (s t : State) : Prop := t.limit = s.limit ∧ t.chunk = s.chunk ∧ t.started = s.started

theorem sameConfig_refl (s : State) : SameConfig s s := ⟨rfl, rfl, rfl⟩

theorem sameConfig_needMore (s : State) : SameConfig s (needMore s) := by
  obtain ⟨-, h⟩ | ⟨-, h⟩ | ⟨-, -, h⟩ | ⟨-, -, h⟩ := needMore_cases s <;> rw [h] <;> exact ⟨rfl, rfl, rfl⟩

theorem sameConfig_evalStep (s : State) : SameConfig s (evalStep s) := by
  obtain ⟨-, h⟩ | ⟨-, -, h⟩ | ⟨k, n, -, -, -, h⟩ | ⟨-, h⟩ := evalStep_cases s <;> rw [h]
  · exact ⟨rfl, rfl, rfl⟩
  · exact ⟨rfl, rfl, rfl⟩
  · exact ⟨rfl, rfl, rfl⟩
  · exact sameConfig_needMore s

theorem sameConfig_takeResponse (r : SrcResponse) (s : State) : SameConfig s (takeResponse r s) := by
  obtain ⟨-, h⟩ | ⟨n, -, -, h⟩ | ⟨n, -, -, h⟩ := takeResponse_cases r s <;> rw [h]
  · exact ⟨rfl, rfl, rfl⟩
  · exact ⟨rfl, rfl, rfl⟩
  · simp [SameConfig]

/-- After the first SCAN a command finds the configuration locked. -/
theorem sameConfig_runCommand {c : Bytes} {s t : State} (hs : s.started = true) (h : runCommand c s = .next t) :
    SameConfig s t := by
  obtain ⟨-, ⟨f, rfl⟩ | ⟨r, -, rfl⟩ | ⟨v, -, hs', -⟩ | ⟨v, -, -, hs', -⟩ | ⟨-, -, rfl⟩⟩ := runCommand_cases h
  · exact ⟨rfl, rfl, rfl⟩
  · exact ⟨rfl, rfl, rfl⟩
  · simp [hs] at hs'
  · simp [hs] at hs'
  · exact ⟨rfl, rfl, hs.symm⟩

theorem sameConfig_hostMove {s t : State} (hs : s.started = true) (h : hostMove s = .next t) : SameConfig s t := by
  obtain ⟨-, rfl⟩ | ⟨c, rest, -, hrun⟩ := hostMove_cases h
  · exact sameConfig_refl _
  · exact sameConfig_runCommand (s := setCmds rest s) hs hrun

theorem sameConfig_sourceMove {s t : State} (h : sourceMove s = .next t) : SameConfig s t := by
  obtain ⟨-, rfl⟩ | ⟨r, rest, -, rfl⟩ := sourceMove_cases h
  · exact sameConfig_refl _
  · exact sameConfig_takeResponse r (setScript rest s)

theorem sameConfig_scannerMove {s t : State} (h : scannerMove s = .next t) : SameConfig s t := by
  obtain ⟨-, rfl⟩ | ⟨-, rfl⟩ := scannerMove_cases h
  · exact sameConfig_refl _
  · exact sameConfig_evalStep s

/-- A step that is no reset, from a state with `started` set. -/
theorem sameConfig_step {s t : State} (hs : s.started = true) (h : step s = .next t)
    (hr : ∀ src, nextTurn s ≠ some (.reset src)) : SameConfig s t := by
  obtain ⟨src, hsrc, -⟩ | ⟨-, ⟨-, rfl⟩ | ⟨-, hm⟩ | ⟨-, hm⟩ | ⟨-, hm⟩⟩ := step_cases h
  · exact absurd hsrc (hr src)
  · exact sameConfig_refl _
  · exact sameConfig_hostMove (s := spendTurn s) hs hm
  · exact sameConfig_sourceMove (s := spendTurn s) hm
  · exact sameConfig_scannerMove (s := spendTurn s) hm

/-- Settles O44: every move but a reset keeps the configuration once `started` is set. -/
theorem configurationLocksAtTheFirstScan : Obligations.ConfigurationLocksAtTheFirstScan := by
  intro s t hs h hr
  obtain ⟨hlimit, hchunk, hstarted⟩ := sameConfig_step hs h hr
  exact ⟨hlimit, hchunk, hstarted.trans hs⟩

end Sys2Proof.Machine
end

section
/-! The fields of STATUS (10_state.md R35): each is read back from the concatenation that STATUS is. -/

namespace Sys2Proof.Machine

theorem terminated_iff (s : State) : terminated s = true ↔ s.fsm = .done := by
  cases h : s.fsm <;> simp [terminated, h]

theorem statusWord_busy (s : State) : (statusWord s).getLsbD 0 = busy s := by
  simp only [statusWord, BitVec.getLsbD_append]
  simp

theorem statusWord_started (s : State) : (statusWord s).getLsbD 1 = s.started := by
  simp only [statusWord, BitVec.getLsbD_append]
  simp

theorem statusWord_terminated (s : State) : (statusWord s).getLsbD 2 = terminated s := by
  simp only [statusWord, BitVec.getLsbD_append]
  simp

theorem statusWord_frameValid (s : State) : (statusWord s).getLsbD 3 = s.frameValid := by
  simp only [statusWord, BitVec.getLsbD_append]
  simp

theorem statusWord_pending (s : State) : (statusWord s).extractLsb' 4 2 = pendingCode s.pending := by
  simp only [statusWord, BitVec.extractLsb'_append_eq_ite]
  simp

theorem statusWord_fsm (s : State) : (statusWord s).extractLsb' 6 2 = fsmCode s.fsm := by
  simp only [statusWord, BitVec.extractLsb'_append_eq_ite]
  simp

theorem statusWord_reserved (s : State) : (statusWord s).extractLsb' 8 56 = 0 := by
  simp only [statusWord, BitVec.extractLsb'_append_eq_ite]
  simp

/-- Number 0x00 is STATUS (R182). -/
theorem exec_regRd_status {s : State} (h : s.fault = none) :
    exec (.regRd 0x00#8) s = .next (respond (.regRd (statusWord s)) s) := by
  rw [exec_regRd, whenLive_live h]
  rfl

/-- Settles O46: the fields of STATUS are those of its concatenation, and the codes of `pending` and `fsm` are R31's and R23's. -/
theorem statusFields : Obligations.StatusFields := by
  refine ⟨statusWord_reset, fun s => ⟨exec_regRd_status, ?_, statusWord_started s, ?_, statusWord_frameValid s, ?_, ?_,
    statusWord_reserved s⟩⟩
  · rw [statusWord_busy, busy_iff]
  · rw [statusWord_terminated, terminated_iff]
  · rw [statusWord_pending]
    cases s.pending <;> rfl
  · rw [statusWord_fsm]
    cases s.fsm <;> rfl

end Sys2Proof.Machine
end

section
/-! The unread stream (20_memory.md R51, R61): the buffer with the bytes still in the source. Taking in a response moves its bytes
from the source's end to the buffer's, an emission takes one frame from the front, and no other step without a fault or a reset
touches it. -/

namespace Sys2Proof.Machine

/-- The unconsumed suffix of the stream (R61). -/
def unread (s : State) : Bytes := s.buf ++ streamBytes s.script

/-- Between `s` and `t` the stream is kept, or a SCAN answered true with the frame at its start. -/
def KeepsStream (s t : State) : Prop :=
  unread t = unread s ∨
  (t.sent = s.sent ++ [.scan true] ∧ ∃ h n, hdrDecode s.buf = .ok h n ∧ t.frame.length = n.toNat ∧
    unread s = s.buf.take h ++ t.frame ++ unread t)

theorem unread_congr {s t : State} (hb : t.buf = s.buf) (hs : t.script = s.script) : unread t = unread s := by
  rw [unread, unread, hb, hs]

theorem streamBytes_cons (r : SrcResponse) (rest : List SrcResponse) :
    streamBytes (r :: rest) = r.data ++ streamBytes rest := List.flatMap_cons

/-- R153: the bytes taken in follow those buffered and come before those still to come. -/
theorem unread_bufAppend {s : State} {r : SrcResponse} {rest : List SrcResponse} (hs : s.script = r :: rest) :
    unread (bufAppend r.data (setScript rest s)) = unread s := by
  simp [unread, hs, streamBytes_cons]

/-- R150: an emission cuts the buffer into a header, the frame and what is left. -/
theorem take_append_emit (h n : Nat) (s : State) :
    s.buf.take h ++ (emit h n s).frame ++ (emit h n s).buf = s.buf := by
  rw [emit_frame, emit_buf, List.append_assoc, ← List.drop_drop, List.take_append_drop, List.take_append_drop]

theorem unread_emit (h n : Nat) (s : State) :
    unread s = s.buf.take h ++ (emit h n s).frame ++ unread (emit h n s) := by
  rw [unread, unread, ← List.append_assoc, take_append_emit, emit_script]

theorem unread_needMore (s : State) : unread (needMore s) = unread s := by
  obtain ⟨-, h⟩ | ⟨-, h⟩ | ⟨-, -, h⟩ | ⟨-, -, h⟩ := needMore_cases s <;> rw [h] <;> exact unread_congr rfl rfl

theorem keepsStream_evalStep (s : State) : KeepsStream s (evalStep s) := by
  obtain ⟨-, h⟩ | ⟨-, -, h⟩ | ⟨k, n, hd, -, hlen, h⟩ | ⟨-, h⟩ := evalStep_cases s <;> rw [h]
  · exact .inl (unread_congr rfl rfl)
  · exact .inl (unread_congr rfl rfl)
  · have hframe : (emit k n.toNat s).frame.length = n.toNat := by simp; omega
    exact .inr ⟨emit_sent .., k, n, hd, hframe, unread_emit k n.toNat s⟩
  · exact .inl (unread_needMore s)

/-- A response that breaks the source's contract is a fault; any other goes into the buffer whole. -/
theorem unread_sourceMove {s t : State} (h : sourceMove s = .next t) (hf : t.fault = none) : unread t = unread s := by
  obtain ⟨-, rfl⟩ | ⟨r, rest, hs, rfl⟩ := sourceMove_cases h
  · rfl
  · obtain ⟨-, ht⟩ | ⟨n, -, -, ht⟩ | ⟨n, -, -, ht⟩ := takeResponse_cases r (setScript rest s)
    · simp [ht] at hf
    · simp [ht] at hf
    · calc unread (takeResponse r (setScript rest s)) = unread (bufAppend r.data (setScript rest s)) := by
            rw [ht]; exact unread_congr (by simp) (by simp)
        _ = unread s := unread_bufAppend hs

/-- No command reads from the source or writes the buffer. -/
theorem unread_runCommand {c : Bytes} {s t : State} (h : runCommand c s = .next t) : unread t = unread s := by
  obtain ⟨-, ⟨f, rfl⟩ | ⟨r, -, rfl⟩ | ⟨v, -, -, rfl⟩ | ⟨v, -, -, -, rfl⟩ | ⟨-, -, rfl⟩⟩ := runCommand_cases h <;>
    exact unread_congr rfl rfl

theorem unread_hostMove {s t : State} (h : hostMove s = .next t) : unread t = unread s := by
  obtain ⟨-, rfl⟩ | ⟨c, rest, -, hrun⟩ := hostMove_cases h
  · rfl
  · exact (unread_runCommand hrun).trans (unread_congr rfl rfl)

theorem keepsStream_scannerMove {s t : State} (h : scannerMove s = .next t) : KeepsStream s t := by
  obtain ⟨-, rfl⟩ | ⟨-, rfl⟩ := scannerMove_cases h
  · exact .inl rfl
  · exact keepsStream_evalStep s

/-- Settles O37, by the agent that moves: the host leaves the stream alone, the source moves bytes within it, and the scanner takes
a frame from it or nothing. -/
theorem streamIsConserved : Obligations.StreamIsConserved := by
  intro s t h hf hr
  obtain ⟨src, hsrc, -⟩ | ⟨-, ⟨-, rfl⟩ | ⟨-, hm⟩ | ⟨-, hm⟩ | ⟨-, hm⟩⟩ := step_cases h
  · exact absurd hsrc (hr src)
  · exact .inl rfl
  · exact .inl (unread_hostMove (s := spendTurn s) hm)
  · exact .inl (unread_sourceMove (s := spendTurn s) hm hf)
  · exact keepsStream_scannerMove (s := spendTurn s) hm

end Sys2Proof.Machine
end

section
/-! The reads without side effect (20_memory.md R58): REG_RD, FRAME_RD and SRCERR_RD respond with what the registers hold, and a
response writes no register. -/

namespace Sys2Proof.Machine

/-- The step of `i` from `s` to `t` is a fault, or one response that `i` gives again from `t`. -/
def FaultsOrRepeats (i : Instr) (s t : State) : Prop :=
  (∃ c, t = raiseFault c s) ∨ ∃ r, t = respond r s ∧ exec i t = .next (respond r t)

@[simp] theorem busy_respond (r : Response) (s : State) : busy (respond r s) = busy s :=
  busy_congr (sameRegisters_respond r s)

/-- No register shows the responses sent. -/
@[simp] theorem readReg_respond (reg : Reg) (r : Response) (s : State) : readReg reg (respond r s) = readReg reg s := by
  cases reg with
  | status => exact congrArg some (statusWord_congr (sameRegisters_respond r s))
  | err | limit | chunk | bufLen | frameLen => rfl

theorem faultsOrRepeats_regRd {n : Byte} {s t : State} (h : exec (.regRd n) s = .next t) :
    FaultsOrRepeats (.regRd n) s t := by
  rw [exec_regRd] at h
  obtain ⟨h0, rfl⟩ := whenLive_eq_next.mp h
  cases hn : regOfNumber n with
  | none => exact .inl ⟨.illegalCommand, rfl⟩
  | some reg =>
    cases hv : readReg reg s with
    | none => exact .inl ⟨.frameInvalid, by simp only [hv]⟩
    | some v =>
      refine .inr ⟨.regRd v, by simp only [hv], ?_⟩
      simp [exec_regRd, whenLive_eq_next, hn, hv, h0]

theorem faultsOrRepeats_frameRd {s t : State} (h : exec .frameRd s = .next t) : FaultsOrRepeats .frameRd s t := by
  rw [exec_frameRd] at h
  obtain ⟨h0, rfl⟩ := whenLive_eq_next.mp h
  cases hb : busy s with
  | true => exact .inl ⟨.busyViolation, unlessBusy_busy hb _⟩
  | false =>
    rw [unlessBusy_free hb]
    cases hv : s.frameValid with
    | false => exact .inl ⟨.frameInvalid, rfl⟩
    | true => exact .inr ⟨.frameRd s.frame, rfl, by simp [exec_frameRd, whenLive_eq_next, unlessBusy, hb, hv, h0]⟩

theorem faultsOrRepeats_srcerrRd {s t : State} (h : exec .srcerrRd s = .next t) : FaultsOrRepeats .srcerrRd s t := by
  rw [exec_srcerrRd] at h
  obtain ⟨h0, rfl⟩ := whenLive_eq_next.mp h
  cases hb : busy s with
  | true => exact .inl ⟨.busyViolation, unlessBusy_busy hb _⟩
  | false =>
    rw [unlessBusy_free hb]
    by_cases he : s.err = .sourceError
    · exact .inr ⟨.srcerrRd s.srcErr, if_pos he, by simp [exec_srcerrRd, whenLive_eq_next, unlessBusy, hb, he, h0]⟩
    · exact .inr ⟨.srcerrRd none, if_neg he, by simp [exec_srcerrRd, whenLive_eq_next, unlessBusy, hb, he, h0]⟩

theorem FaultsOrRepeats.sameRegisters {i : Instr} {s t : State} (h : FaultsOrRepeats i s t) : SameRegisters s t := by
  obtain ⟨c, rfl⟩ | ⟨r, rfl, -⟩ := h
  · exact sameRegisters_raiseFault c s
  · exact sameRegisters_respond r s

theorem FaultsOrRepeats.repeats {i : Instr} {s t : State} (h : FaultsOrRepeats i s t) (hf : t.fault = none) :
    ∃ r, t = respond r s ∧ exec i t = .next (respond r t) := by
  obtain ⟨c, rfl⟩ | h := h
  · simp at hf
  · exact h

/-- Settles O51: each of the three reads faults, or responds with what it then responds again. -/
theorem registerReadsHaveNoSideEffect : Obligations.RegisterReadsHaveNoSideEffect := by
  intro i s t hi h
  have hread : FaultsOrRepeats i s t := by
    obtain ⟨n, rfl⟩ | rfl | rfl := hi
    · exact faultsOrRepeats_regRd h
    · exact faultsOrRepeats_frameRd h
    · exact faultsOrRepeats_srcerrRd h
  refine ⟨hread.sameRegisters, fun hf => ?_⟩
  obtain ⟨r, rfl, hagain⟩ := hread.repeats hf
  exact ⟨r, respond_sent r s, hagain⟩

end Sys2Proof.Machine
end

section
/-! The host's move as the meaning of a command (20_memory.md R60, 30_encoding.md R80). -/

namespace Sys2Proof.Machine

theorem runCommand_of_decode {c : Bytes} {i : Instr} (h : decode c = .ok i) (s : State) : runCommand c s = exec i s := by
  rw [runCommand, h]

/-- Settles O57: the host's move delivers its next command, and a delivered command that decodes is executed. -/
theorem stepRunsTheDecodedCommand : Obligations.StepRunsTheDecodedCommand := by
  intro s c rest i hf ht hc hd
  rw [step_host hf ht hc, runCommand_of_decode hd]
  rfl

end Sys2Proof.Machine
end

section
/-! The header encoder (40_header_codec.md R101, R74): the digits of a header and its length for every Length, the header of Length
0 with the others, and the round trip through the decoder (R107 item 4). -/

open Finset

namespace Sys2Proof.Machine

theorem hdrEncode_of_ne_zero {L : Word} (h : L ≠ 0) : hdrEncode L = hdrEncodeLoop 10 L := if_neg h

/-- Ten digits hold every 64-bit value, so the rounds of the encode loop are enough. -/
theorem toNat_lt_ten_digits (L : Word) : L.toNat < 2 ^ (7 * 10) := L.isLt.trans (by norm_num)

theorem one_le_length_hdrEncode (L : Word) : 1 ≤ (hdrEncode L).length := by
  by_cases h : L = 0
  · simp [h, hdrEncode]
  · rw [hdrEncode_of_ne_zero h]
    exact (hdrEncodeLoop_spec h (toNat_lt_ten_digits L)).1

/-- The digits of the header hold the Length. -/
theorem toNat_lt_two_pow_length_hdrEncode (L : Word) : L.toNat < 2 ^ (7 * (hdrEncode L).length) := by
  by_cases h : L = 0
  · simp [h, hdrEncode]
  · obtain ⟨-, hlt, -, -⟩ := hdrEncodeLoop_spec h (toNat_lt_ten_digits L)
    rwa [hdrEncode_of_ne_zero h]

/-- One digit less does not hold the Length. -/
theorem two_pow_length_hdrEncode_le_toNat {L : Word} (h : L ≠ 0) :
    2 ^ (7 * ((hdrEncode L).length - 1)) ≤ L.toNat := by
  obtain ⟨-, -, hle, -⟩ := hdrEncodeLoop_spec h (toNat_lt_ten_digits L)
  rwa [hdrEncode_of_ne_zero h]

/-- R102: byte `k` is digit `k`, with the continuation bit on every byte but the last. -/
theorem hdrEncode_getD_toNat {L : Word} {k : Nat} (hk : k < (hdrEncode L).length) :
    ((hdrEncode L).getD k 0).toNat =
      (if k + 1 < (hdrEncode L).length then 128 else 0) + L.toNat / 2 ^ (7 * k) % 128 := by
  by_cases h : L = 0
  · subst h
    obtain rfl : k = 0 := by simpa [hdrEncode] using hk
    rfl
  · obtain ⟨-, -, -, hbyte⟩ := hdrEncodeLoop_spec h (toNat_lt_ten_digits L)
    rw [hdrEncode_of_ne_zero h] at hk ⊢
    exact hbyte k hk

/-- R72: a Length below `2^63` has at most nine digits. -/
theorem length_hdrEncode_le_nine {L : Word} (hL : L.toNat ≤ Config.maxLen) : (hdrEncode L).length ≤ 9 := by
  by_cases h : L = 0
  · simp [h, hdrEncode]
  · have hlt : 2 ^ (7 * ((hdrEncode L).length - 1)) < 2 ^ 63 :=
      (two_pow_length_hdrEncode_le_toNat h).trans_lt (Nat.lt_of_le_sub_one (by norm_num) hL)
    have := (Nat.pow_lt_pow_iff_right (by norm_num)).mp hlt
    omega

/-- R74: the bit length over 7, rounded up. -/
theorem length_hdrEncode_eq_log2 {L : Word} (h : L ≠ 0) : (hdrEncode L).length = (Nat.log2 L.toNat + 1 + 6) / 7 := by
  have h0 : L.toNat ≠ 0 := fun hz => h (BitVec.eq_of_toNat_eq hz)
  have hlow := (Nat.le_log2 h0).mpr (two_pow_length_hdrEncode_le_toNat h)
  have hhigh := (Nat.log2_lt h0).mpr (toNat_lt_two_pow_length_hdrEncode L)
  omega

/-- Settles O8: the header's digits hold the Length and one digit less does not, which fixes their number. -/
theorem hdrEncodeLengthIsMinimal : Obligations.HdrEncodeLengthIsMinimal := by
  intro L hL
  refine ⟨?_, one_le_length_hdrEncode L, length_hdrEncode_le_nine hL, toNat_lt_two_pow_length_hdrEncode L, fun hlen => ?_⟩
  · split
    · next h => simp [h, hdrEncode]
    · next h => exact length_hdrEncode_eq_log2 h
  · have h : L ≠ 0 := by
      rintro rfl
      exact absurd hlen (by decide)
    exact two_pow_length_hdrEncode_le_toNat h

/-- Every byte of a header but the last continues it. -/
theorem isCont_hdrEncode_getD {L : Word} {k : Nat} (hk : k < (hdrEncode L).length) :
    isCont ((hdrEncode L).getD k 0) = decide (k + 1 < (hdrEncode L).length) := by
  rw [Bool.eq_iff_iff, isCont_iff, hdrEncode_getD_toNat hk, decide_eq_true_iff]
  split <;> omega

/-- The digits of a header add up to its Length. -/
theorem sum_digits_hdrEncode (L : Word) :
    ∑ i ∈ range (hdrEncode L).length, ((hdrEncode L).getD i 0).toNat % 128 * 2 ^ (7 * i) = L.toNat := by
  have hdigit : ∀ i ∈ range (hdrEncode L).length, ((hdrEncode L).getD i 0).toNat % 128 * 2 ^ (7 * i) =
      L.toNat / 2 ^ (7 * i) % 128 * 2 ^ (7 * i) := by
    intro i hi
    rw [hdrEncode_getD_toNat (mem_range.mp hi)]
    congr 1
    split <;> omega
  rw [sum_congr rfl hdigit, sum_digits, Nat.mod_eq_of_lt (toNat_lt_two_pow_length_hdrEncode L)]

theorem hdrDecode_hdrEncode {L : Word} (hL : L.toNat ≤ Config.maxLen) :
    hdrDecode (hdrEncode L) = .ok (hdrEncode L).length L := by
  have hone := one_le_length_hdrEncode L
  have hnine := length_hdrEncode_le_nine hL
  refine (hdrDecodeLoop_ok (by decide) (by decide)).mpr
    ⟨(hdrEncode L).length - 1, ?_, by omega, fun i hi => ?_, ?_, by omega, ?_⟩
  · exact Nat.sub_one_lt_of_le hone hnine
  · rw [isCont_hdrEncode_getD (by omega)]
    exact decide_eq_true (by omega)
  · rw [isCont_hdrEncode_getD (by omega)]
    exact decide_eq_false (by omega)
  · simp only [Nat.sub_add_cancel hone, Nat.zero_add, sum_digits_hdrEncode]
    exact (Nat.zero_add _).symm

/-- R107 item 1: a decoded header is decoded the same whatever follows it. -/
theorem hdrDecode_append {s : Bytes} {h : Nat} {n : Word} (hd : hdrDecode s = .ok h n) (t : Bytes) :
    hdrDecode (s ++ t) = .ok h n := by
  have hdecided : hdrDecode s ≠ .insufficient := by simp [hd]
  exact (hdrDecodeLoop_append t hdecided).trans hd

/-- R107 item 4: the header round trip. -/
theorem hdrDecode_hdrEncode_append {L : Word} (hL : L.toNat ≤ Config.maxLen) (t : Bytes) :
    hdrDecode (hdrEncode L ++ t) = .ok (hdrEncode L).length L :=
  hdrDecode_append (hdrDecode_hdrEncode hL) t

end Sys2Proof.Machine
end

section
/-! The operand forms (30_encoding.md R80 to R83): when each form reads its operand, and what it reads. -/

open Finset

namespace Sys2Proof.Machine

/- ## `u64` -/

theorem u64Operand_of_length {o : Bytes} (h : o.length = 8) : u64Operand o = .ok (u64Sum 0 o) := if_pos h

/-- R81: the weights of the 8 bytes. -/
theorem u64Sum_toNat_of_length {o : Bytes} (h : o.length = 8) :
    (u64Sum 0 o).toNat = ∑ k ∈ range 8, (o.getD k 0).toNat * 2 ^ (8 * k) := by
  obtain ⟨hsum, -⟩ := u64Sum_toNat (k := 0) (s := o) (by omega)
  simpa only [h, Nat.zero_add] using hsum

theorem u64Sum_u64Bytes (v : Word) : u64Sum 0 (u64Bytes v) = v := by
  apply BitVec.eq_of_toNat_eq
  have hbyte : ∀ k ∈ range 8, ((u64Bytes v).getD k 0).toNat * 2 ^ (8 * k) = v.toNat / 2 ^ (8 * k) % 256 * 2 ^ (8 * k) :=
    fun k hk => by rw [u64Bytes_getD v (mem_range.mp hk)]
  rw [u64Sum_toNat_of_length rfl, sum_congr rfl hbyte, sum_bytes]
  exact Nat.mod_eq_of_lt v.isLt

theorem u64Operand_u64Bytes (v : Word) : u64Operand (u64Bytes v) = .ok v := by
  rw [u64Operand_of_length rfl, u64Sum_u64Bytes]

theorem exists_u64Operand_eq_ok (o : Bytes) : (∃ v, u64Operand o = .ok v) ↔ o.length = 8 := by
  by_cases h : o.length = 8 <;> simp [u64Operand, h]

/- ## `bytes` -/

/-- R82: the operand is one whole frame, its framing header canonical or not. -/
def Framed (o : Bytes) : Prop := ∃ (h : Nat) (len : Word), hdrDecode o = .ok h len ∧ o.length = h + len.toNat

theorem bytesOperand_of_framed {o : Bytes} {h : Nat} {len : Word} (hd : hdrDecode o = .ok h len)
    (hlen : o.length = h + len.toNat) : bytesOperand o = .ok (o.drop h) := by
  simp [bytesOperand, hd, hlen]

theorem bytesOperand_of_not_framed {o : Bytes} (hf : ¬ Framed o) : bytesOperand o = .error .badFraming := by
  unfold bytesOperand
  split
  · next h len hd => exact if_neg fun hlen => hf ⟨h, len, hd, hlen⟩
  · rfl
  · rfl

theorem exists_bytesOperand_eq_ok (o : Bytes) : (∃ p, bytesOperand o = .ok p) ↔ Framed o := by
  constructor
  · rintro ⟨p, hp⟩
    by_contra hf
    simp [bytesOperand_of_not_framed hf] at hp
  · rintro ⟨h, len, hd, hlen⟩
    exact ⟨_, bytesOperand_of_framed hd hlen⟩

theorem toNat_ofNat_of_le_maxLen {n : Nat} (h : n ≤ Config.maxLen) : (BitVec.ofNat 64 n).toNat = n := by
  rw [BitVec.toNat_ofNat]
  exact Nat.mod_eq_of_lt (h.trans_lt (by decide))

/-- The frame of a payload reads as that payload. -/
theorem bytesOperand_frmEncode {p : Bytes} (hp : p.length ≤ Config.maxLen) : bytesOperand (frmEncode p) = .ok p := by
  have hn := toNat_ofNat_of_le_maxLen hp
  rw [frmEncode, bytesOperand_of_framed (hdrDecode_hdrEncode_append (hn.trans_le hp) p) (by rw [List.length_append, hn]),
    List.drop_left]

/- ## `none` and `reg` -/

theorem exists_noOperand_eq_ok (o : Bytes) : (∃ u, noOperand o = .ok u) ↔ o = [] := by
  by_cases h : o = [] <;> simp [noOperand, h]

/-- R37, R38: the registers are the numbers 0 to 5. -/
theorem isSome_regOfNumber (n : Byte) : (regOfNumber n).isSome = true ↔ n.toNat ≤ 5 := by
  revert n; decide

theorem regOperand_of_le {n : Byte} (h : n.toNat ≤ 5) : regOperand [n] = .ok n :=
  if_pos ((isSome_regOfNumber n).mpr h)

theorem exists_regOperand_eq_ok (o : Bytes) :
    (∃ n, regOperand o = .ok n) ↔ ∃ n : Byte, o = [n] ∧ n.toNat ≤ 5 := by
  constructor
  · rintro ⟨n, hn⟩
    match o with
    | [] => simp [regOperand] at hn
    | [m] =>
      refine ⟨m, rfl, (isSome_regOfNumber m).mp ?_⟩
      by_contra hm
      simp [regOperand, hm] at hn
    | _ :: _ :: _ => simp [regOperand] at hn
  · rintro ⟨n, rfl, hn⟩
    exact ⟨n, regOperand_of_le hn⟩

/- ## Any form -/

/-- The operand has its form, in the words of R80 to R83. -/
def OperandFits (form : OperandForm) (o : Bytes) : Prop :=
  match form with
  | .none => o = []
  | .u64 => o.length = 8
  | .bytes => Framed o
  | .reg => ∃ n : Byte, o = [n] ∧ n.toNat ≤ 5

/-- R88: an operand of its form shows its own length, whatever follows it. -/
theorem operandLength_append {form : OperandForm} {o : Bytes} (h : OperandFits form o) (rest : Bytes) :
    operandLength form (o ++ rest) = some o.length := by
  cases form with
  | none =>
    obtain rfl : o = [] := h
    rfl
  | u64 => exact congrArg some (Eq.symm h)
  | bytes =>
    obtain ⟨k, len, hd, hlen⟩ := h
    simp only [operandLength, hdrDecode_append hd rest, hlen]
  | reg =>
    obtain ⟨n, rfl, -⟩ := h
    rfl

end Sys2Proof.Machine
end

section
/-! The command decoder (30_encoding.md R80 to R88): a row of the opcode map and an operand of its form, and nothing else, is a
command. -/

namespace Sys2Proof.Machine

/- ## The opcode map -/

theorem opRow_eq_some_iff {code : Byte} {row : OpRow} : opRow code = some row ↔ row ∈ opTable ∧ row.code = code := by
  constructor
  · exact fun h => ⟨List.mem_of_find?_eq_some h, by simpa using List.find?_some h⟩
  · rintro ⟨hm, rfl⟩
    exact (show ∀ r ∈ opTable, opRow r.code = some r by decide) row hm

theorem decode_cons_of_mem {row : OpRow} (h : row ∈ opTable) (o : Bytes) :
    decode (row.code :: o) = decodeOperand row.op o := by
  simp only [decode, opRow_eq_some_iff.mpr ⟨h, rfl⟩]

/-- Only an opcode of the map, with an operand that its row decodes, is a command. -/
theorem decode_eq_ok_iff {c : Bytes} {i : Instr} :
    decode c = .ok i ↔ ∃ row ∈ opTable, ∃ o, c = row.code :: o ∧ decodeOperand row.op o = .ok i := by
  constructor
  · intro h
    cases c with
    | nil => cases h
    | cons code o =>
      simp only [decode] at h
      split at h
      · cases h
      · next row hrow =>
        obtain ⟨hm, rfl⟩ := opRow_eq_some_iff.mp hrow
        exact ⟨row, hm, o, rfl, h⟩
  · rintro ⟨row, hm, o, rfl, h⟩
    rwa [decode_cons_of_mem hm]

/-- The commands with a `u64` operand (R84). -/
theorem decode_u64Command {code : Byte} {make : Word → Instr}
    (h : (code, make) ∈ [(0x01#8, Instr.hdrEnc), (0x20#8, Instr.cfgLimit), (0x21#8, Instr.cfgChunk)]) (o : Bytes) :
    decode (code :: o) = (u64Operand o).map make := by
  simp only [List.mem_cons, Prod.mk.injEq, List.not_mem_nil, or_false] at h
  obtain ⟨rfl, rfl⟩ | ⟨rfl, rfl⟩ | ⟨rfl, rfl⟩ := h <;> rfl

/-- The commands with a `bytes` operand (R84). -/
theorem decode_bytesCommand {code : Byte} {make : Bytes → Instr}
    (h : (code, make) ∈ [(0x02#8, Instr.hdrDec), (0x03#8, Instr.frmEnc), (0x04#8, Instr.frmDec)]) (o : Bytes) :
    decode (code :: o) = (bytesOperand o).map make := by
  simp only [List.mem_cons, Prod.mk.injEq, List.not_mem_nil, or_false] at h
  obtain ⟨rfl, rfl⟩ | ⟨rfl, rfl⟩ | ⟨rfl, rfl⟩ := h <;> rfl

/- ## The round trip -/

theorem decode_u64Bytes {code : Byte} {make : Word → Instr}
    (h : (code, make) ∈ [(0x01#8, Instr.hdrEnc), (0x20#8, Instr.cfgLimit), (0x21#8, Instr.cfgChunk)]) (v : Word) :
    decode (code :: u64Bytes v) = .ok (make v) := by
  rw [decode_u64Command h, u64Operand_u64Bytes, Except.map]

theorem decode_frmEncode {code : Byte} {make : Bytes → Instr}
    (h : (code, make) ∈ [(0x02#8, Instr.hdrDec), (0x03#8, Instr.frmEnc), (0x04#8, Instr.frmDec)]) {p : Bytes}
    (hp : p.length ≤ Config.maxLen) : decode (code :: frmEncode p) = .ok (make p) := by
  rw [decode_bytesCommand h, bytesOperand_frmEncode hp, Except.map]

/-- Settles O1, by the command: its operand is written as its form reads it. -/
theorem decodeOfEncodeIsIdentity : Obligations.DecodeOfEncodeIsIdentity := by
  intro i hi
  cases i with
  | hdrEnc length => exact decode_u64Bytes (by simp) length
  | cfgLimit value => exact decode_u64Bytes (by simp) value
  | cfgChunk value => exact decode_u64Bytes (by simp) value
  | hdrDec data => exact decode_frmEncode (by simp) (of_decide_eq_true hi)
  | frmEnc payload => exact decode_frmEncode (by simp) (of_decide_eq_true hi)
  | frmDec data => exact decode_frmEncode (by simp) (of_decide_eq_true hi)
  | scan => rfl
  | frameRd => rfl
  | srcerrRd => rfl
  | regRd n => exact congrArg (Except.map Instr.regRd) (regOperand_of_le (of_decide_eq_true hi))

/-- Settles O2: the encoder gives each of the eleven, and the round trip decodes it. -/
theorem workedEncodings : Obligations.WorkedEncodings := by
  intro p hp
  have hencode : encode p.1 = p.2 ∧ wellFormed p.1 = true := by
    revert p
    decide
  obtain ⟨he, hw⟩ := hencode
  exact ⟨he, he ▸ decodeOfEncodeIsIdentity p.1 hw⟩

/- ## What an operand stands for -/

/-- Settles O5: the operand is read as the sum over its bytes, which does not wrap. -/
theorem u64OperandIsLittleEndian : Obligations.U64OperandIsLittleEndian := by
  intro code make o hm hlen
  refine ⟨u64Sum 0 o, ?_, u64Sum_toNat_of_length hlen⟩
  rw [decode_u64Command hm, u64Operand_of_length hlen, Except.map]

/-- Settles O6: the `bytes` form reads the payload of a whole frame and refuses the rest, and every payload has a frame. -/
theorem bytesOperandIsTheFramedPayload : Obligations.BytesOperandIsTheFramedPayload := by
  intro code make hm
  refine ⟨fun o h len hd hlen => ?_, fun o hf => ?_, fun p hp => ⟨frmEncode p, decode_frmEncode hm hp⟩⟩
  · rw [decode_bytesCommand hm, bytesOperand_of_framed hd hlen, Except.map]
  · rw [decode_bytesCommand hm, bytesOperand_of_not_framed hf, Except.map]

/- ## The legal forms -/

theorem exists_map_eq_ok {α β : Type} (f : α → β) (x : Except DecodeError α) :
    (∃ b, x.map f = .ok b) ↔ ∃ a, x = .ok a := by
  cases x <;> simp [Except.map]

/-- Each row of the opcode map decodes the operands of its form. -/
theorem exists_decodeOperand_eq_ok {row : OpRow} (h : row ∈ opTable) (o : Bytes) :
    (∃ i, decodeOperand row.op o = .ok i) ↔ OperandFits row.form o := by
  simp only [opTable, List.mem_cons, List.not_mem_nil, or_false] at h
  obtain rfl | rfl | rfl | rfl | rfl | rfl | rfl | rfl | rfl | rfl := h <;>
    simp only [decodeOperand, exists_map_eq_ok, exists_u64Operand_eq_ok, exists_bytesOperand_eq_ok, exists_noOperand_eq_ok,
      exists_regOperand_eq_ok, OperandFits]

theorem exists_decode_eq_ok {c : Bytes} :
    (∃ i, decode c = .ok i) ↔ ∃ row ∈ opTable, ∃ o, c = row.code :: o ∧ OperandFits row.form o := by
  constructor
  · rintro ⟨i, hi⟩
    obtain ⟨row, hm, o, hc, ho⟩ := decode_eq_ok_iff.mp hi
    exact ⟨row, hm, o, hc, (exists_decodeOperand_eq_ok hm o).mp ⟨i, ho⟩⟩
  · rintro ⟨row, hm, o, hc, hfit⟩
    obtain ⟨i, hi⟩ := (exists_decodeOperand_eq_ok hm o).mpr hfit
    exact ⟨i, decode_eq_ok_iff.mpr ⟨row, hm, o, hc, hi⟩⟩

/-- The opcodes of one operand form, in the order of the map. -/
def codesOf (form : OperandForm) : List Byte := (opTable.filter fun row => row.form = form).map OpRow.code

theorem mem_codesOf {form : OperandForm} {code : Byte} :
    code ∈ codesOf form ↔ ∃ row ∈ opTable, row.form = form ∧ row.code = code := by
  simp [codesOf, and_assoc]

/-- R80 to R84 list the opcodes form by form, as the map has them. -/
theorem legalForm_iff {c : Bytes} :
    LegalForm c ↔ ∃ code o, c = code :: o ∧ ∃ form, code ∈ codesOf form ∧ OperandFits form o := by
  constructor
  · rintro ⟨code, o, hc, ⟨hm, ho⟩ | ⟨hm, ho⟩ | ⟨hm, ho⟩ | ⟨hm, ho⟩⟩
    · exact ⟨code, o, hc, .u64, hm, ho⟩
    · exact ⟨code, o, hc, .bytes, hm, ho⟩
    · exact ⟨code, o, hc, .none, hm, ho⟩
    · exact ⟨code, o, hc, .reg, List.mem_singleton.mpr hm, ho⟩
  · rintro ⟨code, o, hc, form, hm, ho⟩
    cases form with
    | u64 => exact ⟨code, o, hc, .inl ⟨hm, ho⟩⟩
    | bytes => exact ⟨code, o, hc, .inr (.inl ⟨hm, ho⟩)⟩
    | none => exact ⟨code, o, hc, .inr (.inr (.inl ⟨hm, ho⟩))⟩
    | reg => exact ⟨code, o, hc, .inr (.inr (.inr ⟨List.mem_singleton.mp hm, ho⟩))⟩

/-- Settles O3: the decoder goes by the rows of the opcode map, and the rules list the same rows by operand form. -/
theorem exactlyTheLegalFormsDecode : Obligations.ExactlyTheLegalFormsDecode := by
  intro c
  rw [exists_decode_eq_ok, legalForm_iff]
  constructor
  · rintro ⟨row, hm, o, rfl, ho⟩
    exact ⟨row.code, o, rfl, row.form, mem_codesOf.mpr ⟨row, hm, rfl, rfl⟩, ho⟩
  · rintro ⟨code, o, rfl, form, hcode, ho⟩
    obtain ⟨row, hm, rfl, rfl⟩ := mem_codesOf.mp hcode
    exact ⟨row, hm, o, rfl, ho⟩

theorem runCommand_of_not_legalForm {c : Bytes} (hc : ¬ LegalForm c) {s : State} (hf : s.fault = none) :
    runCommand c s = .next (raiseFault .illegalCommand s) := by
  unfold runCommand
  split
  · exact whenLive_live hf _
  · next i hi => exact absurd ((exactlyTheLegalFormsDecode c).mp ⟨i, hi⟩) hc

/-- Settles O4: bytes of no legal form are refused before any command runs, and REG_RD itself refuses a reserved number. -/
theorem illegalCommandsFault : Obligations.IllegalCommandsFault := by
  constructor
  · intro s c rest hf ht hcmds hc
    have hsame : SameRegisters s (setCmds rest (spendTurn s)) :=
      sameRegisters_trans (sameRegisters_spendTurn s) (sameRegisters_setCmds rest _)
    refine ⟨raiseFault .illegalCommand (setCmds rest (spendTurn s)), ?_, raiseFault_fault .., ?_, by simp⟩
    · rw [step_host hf ht hcmds, runCommand_of_not_legalForm hc (by simpa using hf)]
    · exact sameRegisters_trans hsame (sameRegisters_raiseFault _ _)
  · intro s n hf hn
    have hnone : regOfNumber n = none := by
      rw [← Option.not_isSome_iff_eq_none, isSome_regOfNumber]
      omega
    rw [exec_regRd, whenLive_live hf, hnone]
    rfl

/- ## Commands back to back -/

theorem commandLength_append {row : OpRow} (hm : row ∈ opTable) {o : Bytes} (ho : OperandFits row.form o) (rest : Bytes) :
    commandLength (row.code :: o ++ rest) = some (row.code :: o).length := by
  simp only [List.cons_append, commandLength, opRow_eq_some_iff.mpr ⟨hm, rfl⟩, operandLength_append ho rest,
    Option.map_some, List.length_cons, Nat.add_comm]

/-- Settles O7: the opcode and the operand show the command's length, whatever bytes follow. -/
theorem commandsAreSelfDelimiting : Obligations.CommandsAreSelfDelimiting := by
  intro c rest i hi
  obtain ⟨row, hm, o, rfl, ho⟩ := exists_decode_eq_ok.mp ⟨i, hi⟩
  simp only [splitCommand, commandLength_append hm ho rest, List.length_append, Nat.le_add_right, if_true,
    List.take_left, List.drop_left]

end Sys2Proof.Machine
end

section
/-! The header decoder (40_header_codec.md R105, R107): the inputs of each outcome, and what the bytes of a decoded header are. -/

open Finset

namespace Sys2Proof.Machine

/- ## The outcomes -/

/-- R105, R77: the first byte without a continuation bit ends the header, and the digits up to there are the Length. -/
theorem hdrDecode_eq_ok_iff {s : Bytes} {h : Nat} {n : Word} : hdrDecode s = .ok h n ↔
    1 ≤ h ∧ h ≤ 9 ∧ h ≤ s.length ∧ (∀ k, k + 1 < h → isCont (s.getD k 0) = true) ∧ isCont (s.getD (h - 1) 0) = false ∧
      n.toNat = ∑ k ∈ range h, (s.getD k 0).toNat % 128 * 2 ^ (7 * k) := by
  refine (hdrDecodeLoop_ok (left := Config.maxHdr) (k := 0) (by decide) (by decide)).trans ?_
  simp only [show (0 : Word).toNat = 0 from rfl, Nat.zero_add]
  constructor
  · rintro ⟨j, hj, hlen, hcont, hlast, rfl, hsum⟩
    exact ⟨by omega, hj, hlen, fun k hk => hcont k (by omega), hlast, hsum⟩
  · rintro ⟨hone, hnine, hlen, hcont, hlast, hsum⟩
    obtain ⟨j, rfl⟩ := Nat.exists_eq_add_of_le' hone
    exact ⟨j, hnine, hlen, fun k hk => hcont k (by omega), hlast, rfl, hsum⟩

theorem hdrDecode_eq_insufficient_iff {s : Bytes} :
    hdrDecode s = .insufficient ↔ s.length ≤ 9 ∧ ∀ b ∈ s, isCont b = true :=
  hdrDecodeLoop_insufficient Config.maxHdr 0 0 s

theorem hdrDecode_eq_tooLarge_iff {s : Bytes} :
    hdrDecode s = .tooLarge ↔ 10 ≤ s.length ∧ ∀ b ∈ s.take 9, isCont b = true :=
  hdrDecodeLoop_tooLarge Config.maxHdr 0 0 s

/-- A header is found exactly where one of the first nine bytes does not continue it. -/
theorem exists_hdrDecode_eq_ok_iff {s : Bytes} :
    (∃ h n, hdrDecode s = .ok h n) ↔ ∃ b ∈ s.take 9, isCont b = false := by
  have hall : (∀ b ∈ s.take 9, isCont b = true) ↔ hdrDecode s = .insufficient ∨ hdrDecode s = .tooLarge := by
    rw [hdrDecode_eq_insufficient_iff, hdrDecode_eq_tooLarge_iff]
    rcases Nat.lt_or_ge 9 s.length with hlong | hshort
    · simp [Nat.not_le.mpr hlong, Nat.succ_le_iff.mpr hlong]
    · simp [hshort, List.take_of_length_le hshort]
  rw [← not_iff_not]
  simp only [not_exists, not_and, Bool.not_eq_false]
  rw [hall]
  cases hdrDecode s <;> simp

/-- The bytes before place `m`, as members and by their places. -/
theorem forall_mem_take_iff_getD {p : Byte → Prop} {s : Bytes} {m : Nat} (hm : m ≤ s.length) :
    (∀ b ∈ s.take m, p b) ↔ ∀ k, k < m → p (s.getD k 0) := by
  rw [List.forall_mem_iff_getElem]
  simp only [List.getElem_take, List.length_take, Nat.min_eq_left hm]
  refine forall₂_congr fun k hk => ?_
  rw [List.getD_eq_getElem _ _ (hk.trans_le hm)]

theorem forall_mem_iff_getD {p : Byte → Prop} {s : Bytes} : (∀ b ∈ s, p b) ↔ ∀ k, k < s.length → p (s.getD k 0) := by
  simpa only [List.take_length] using forall_mem_take_iff_getD (p := p) s.length.le_refl

/-- Settles O10: the three outcomes of the decode loop, with the bytes named by their places. -/
theorem hdrDecodeOutcomes : Obligations.HdrDecodeOutcomes := by
  intro s
  refine ⟨fun h n => hdrDecode_eq_ok_iff, hdrDecode_eq_insufficient_iff.trans ?_, hdrDecode_eq_tooLarge_iff.trans ?_⟩
  · exact and_congr_right' (forall_mem_iff_getD (p := fun b => isCont b = true))
  · exact and_congr_right fun hlen => forall_mem_take_iff_getD (by omega)

/- ## A decoded header as base-128 digits -/

theorem two_pow_digits_succ (m : Nat) : 2 ^ (7 * (m + 1)) = 128 * 2 ^ (7 * m) := by
  rw [Nat.mul_succ, Nat.pow_add']

/-- The first digit, and the sum of the others. -/
theorem sum_digits_succ (d : Nat → Nat) (m : Nat) :
    ∑ i ∈ range (m + 1), d i * 2 ^ (7 * i) = d 0 + 128 * ∑ i ∈ range m, d (i + 1) * 2 ^ (7 * i) := by
  rw [sum_range_succ', mul_sum, add_comm]
  refine congrArg₂ _ (by simp) (sum_congr rfl fun i _ => ?_)
  rw [two_pow_digits_succ, mul_left_comm]

/-- Digits below 128 can be read back from their sum. -/
theorem sum_div_pow_mod_eq_digit {d : Nat → Nat} (hd : ∀ i, d i < 128) {m k : Nat} (hk : k < m) :
    (∑ i ∈ range m, d i * 2 ^ (7 * i)) / 2 ^ (7 * k) % 128 = d k := by
  induction k generalizing d m with
  | zero =>
    obtain ⟨m, rfl⟩ := Nat.exists_eq_add_of_le' hk
    have h0 := hd 0
    rw [sum_digits_succ]
    omega
  | succ k ih =>
    obtain ⟨m, rfl⟩ := Nat.exists_eq_add_of_le' (Nat.one_le_of_lt hk)
    rw [sum_digits_succ, two_pow_digits_succ, ← Nat.div_div_eq_div_mul, Nat.add_mul_div_left _ _ (by decide),
      Nat.div_eq_of_lt (hd 0), Nat.zero_add]
    exact ih (fun i => hd (i + 1)) (Nat.lt_of_succ_lt_succ hk)

theorem sum_digits_lt_two_pow {d : Nat → Nat} (hd : ∀ i, d i < 128) (m : Nat) :
    ∑ i ∈ range m, d i * 2 ^ (7 * i) < 2 ^ (7 * m) := by
  induction m generalizing d with
  | zero => simp
  | succ m ih =>
    have h0 := hd 0
    have hrest := ih fun i => hd (i + 1)
    rw [sum_digits_succ, two_pow_digits_succ]
    omega

/-- A byte that ends a header is its digit. -/
theorem digitOf_eq_zero_iff {b : Byte} (hb : isCont b = false) : digitOf b = 0 ↔ b = 0 := by
  revert b; decide

section Decoded
variable {s : Bytes} {h : Nat} {n : Word} (hd : hdrDecode s = .ok h n)
include hd

theorem toNat_lt_two_pow_of_hdrDecode : n.toNat < 2 ^ (7 * h) := by
  obtain ⟨-, -, -, -, -, hsum⟩ := hdrDecode_eq_ok_iff.mp hd
  rw [hsum]
  exact sum_digits_lt_two_pow (fun i => Nat.mod_lt _ (by decide)) h

/-- R107 item 3: nine digits hold no more than MAX_LEN. -/
theorem toNat_le_maxLen_of_hdrDecode : n.toNat ≤ Config.maxLen := by
  obtain ⟨-, hnine, -⟩ := hdrDecode_eq_ok_iff.mp hd
  have hpow : 2 ^ (7 * h) ≤ 2 ^ 63 := Nat.pow_le_pow_right (by decide) (by omega)
  exact Nat.le_sub_one_of_lt ((toNat_lt_two_pow_of_hdrDecode hd).trans_le hpow)

/-- The bytes of a decoded header are fixed by its byte count and its Length, as those of an encoded one are (R102). -/
theorem getD_toNat_of_hdrDecode {k : Nat} (hk : k < h) :
    (s.getD k 0).toNat = (if k + 1 < h then 128 else 0) + n.toNat / 2 ^ (7 * k) % 128 := by
  obtain ⟨-, -, -, hcont, hlast, hsum⟩ := hdrDecode_eq_ok_iff.mp hd
  rw [hsum, sum_div_pow_mod_eq_digit (d := fun i => (s.getD i 0).toNat % 128) (fun i => Nat.mod_lt _ (by decide)) hk]
  have hbyte : (s.getD k 0).toNat < 256 := (s.getD k 0).isLt
  split
  · next hmore =>
    have := (isCont_iff _).mp (hcont k hmore)
    omega
  · next hend =>
    obtain rfl : k = h - 1 := by omega
    have := mt (isCont_iff _).mpr (Bool.eq_false_iff.mp hlast)
    omega

/-- The last byte of a header is the top digit of its Length. -/
theorem last_toNat_of_hdrDecode : (s.getD (h - 1) 0).toNat = n.toNat / 2 ^ (7 * (h - 1)) := by
  obtain ⟨hone, -⟩ := hdrDecode_eq_ok_iff.mp hd
  have hlt := toNat_lt_two_pow_of_hdrDecode hd
  rw [← Nat.sub_add_cancel hone, two_pow_digits_succ, mul_comm] at hlt
  rw [getD_toNat_of_hdrDecode hd (by omega), if_neg (by omega), Nat.zero_add]
  exact Nat.mod_eq_of_lt (Nat.div_lt_of_lt_mul hlt)

theorem length_take_of_hdrDecode : (s.take h).length = h := by
  obtain ⟨-, -, hlen, -⟩ := hdrDecode_eq_ok_iff.mp hd
  exact List.length_take_of_le hlen

theorem getLast?_take_of_hdrDecode : (s.take h).getLast? = some (s.getD (h - 1) 0) := by
  obtain ⟨hone, -, hlen, -⟩ := hdrDecode_eq_ok_iff.mp hd
  rw [List.getLast?_take, if_neg (by omega), List.getD_eq_getElem?_getD, List.getElem?_eq_getElem (by omega)]
  rfl

theorem last_eq_zero_iff_of_hdrDecode : s.getD (h - 1) 0 = 0 ↔ n.toNat < 2 ^ (7 * (h - 1)) := by
  rw [← BitVec.toNat_inj, last_toNat_of_hdrDecode hd]
  exact Nat.div_eq_zero_iff_lt (by positivity)

/-- R75: a header is canonical when its Length needs all its digits. -/
theorem canonical_take_iff_of_hdrDecode : Canonical (s.take h) ↔ h = 1 ∨ 2 ^ (7 * (h - 1)) ≤ n.toNat := by
  obtain ⟨-, -, -, -, hlast, -⟩ := hdrDecode_eq_ok_iff.mp hd
  simp only [Canonical, length_take_of_hdrDecode hd, getLast?_take_of_hdrDecode hd, Option.some.injEq, exists_eq_left',
    ne_eq, digitOf_eq_zero_iff hlast, last_eq_zero_iff_of_hdrDecode hd, Nat.not_lt]

end Decoded

/-- Two headers of one byte count and one Length are the same bytes. -/
theorem take_eq_take_of_hdrDecode {s t : Bytes} {h : Nat} {n : Word} (hs : hdrDecode s = .ok h n)
    (ht : hdrDecode t = .ok h n) : s.take h = t.take h := by
  obtain ⟨-, -, hlen, -⟩ := hdrDecode_eq_ok_iff.mp hs
  obtain ⟨-, -, hlen', -⟩ := hdrDecode_eq_ok_iff.mp ht
  refine List.ext_getElem ((length_take_of_hdrDecode hs).trans (length_take_of_hdrDecode ht).symm) fun k hk _ => ?_
  rw [length_take_of_hdrDecode hs] at hk
  rw [List.getElem_take, List.getElem_take, ← List.getD_eq_getElem s 0 (by omega), ← List.getD_eq_getElem t 0 (by omega)]
  apply BitVec.eq_of_toNat_eq
  rw [getD_toNat_of_hdrDecode hs hk, getD_toNat_of_hdrDecode ht hk]

/-- Settles O11: the decode loop keeps a decided outcome and reads one byte more than a header may have, and nine digits hold no
more than MAX_LEN. -/
theorem hdrDecodeIsPrefixStable : Obligations.HdrDecodeIsPrefixStable := by
  refine ⟨fun s t h n hd => ⟨hdrDecode_append hd t, toNat_le_maxLen_of_hdrDecode hd⟩, fun s t hd => ?_, fun s => ?_⟩
  · have hdecided : hdrDecode s ≠ .insufficient := by simp [hd]
    exact (hdrDecodeLoop_append t hdecided).trans hd
  · exact hdrDecodeLoop_take Config.maxHdr 0 0 s

end Sys2Proof.Machine
end

section
/-! Encoding and decoding a header (40_header_codec.md R101, R105, 30_encoding.md R75): the encoder writes the canonical header, the
shortest of those that decode to its Length. -/

namespace Sys2Proof.Machine

/-- Settles O12, by the encoder's round trip and the decoder's indifference to what follows a header. -/
theorem hdrRoundTrip : Obligations.HdrRoundTrip := fun _ t hL => hdrDecode_hdrEncode_append hL t

theorem canonical_hdrEncode {L : Word} (hL : L.toNat ≤ Config.maxLen) : Canonical (hdrEncode L) := by
  rw [← List.take_length (l := hdrEncode L), canonical_take_iff_of_hdrDecode (hdrDecode_hdrEncode hL)]
  by_cases h : L = 0
  · exact .inl (by rw [h]; rfl)
  · exact .inr (two_pow_length_hdrEncode_le_toNat h)

/-- R74, R76: the top digit is zero for the Length 0 only. -/
theorem getLast?_hdrEncode_eq_zero_iff {L : Word} (hL : L.toNat ≤ Config.maxLen) :
    (hdrEncode L).getLast? = some 0 ↔ L = 0 := by
  have hd := hdrDecode_hdrEncode hL
  rw [← List.take_length (l := hdrEncode L), getLast?_take_of_hdrDecode hd, Option.some.injEq,
    last_eq_zero_iff_of_hdrDecode hd]
  constructor
  · intro hlt
    by_contra h
    exact Nat.not_lt.mpr (two_pow_length_hdrEncode_le_toNat h) hlt
  · rintro rfl
    decide

/-- Settles O9: each byte is a digit, and the last one is the top digit of the Length. -/
theorem hdrEncodeBytesAreTheDigits : Obligations.HdrEncodeBytesAreTheDigits := fun _ hL =>
  ⟨fun _ hk => hdrEncode_getD_toNat hk, canonical_hdrEncode hL, getLast?_hdrEncode_eq_zero_iff hL⟩

/-- R74: `m` digits hold the Length exactly when the encoding has no more bytes. -/
theorem length_hdrEncode_le_iff {L : Word} {m : Nat} (hm : 1 ≤ m) : (hdrEncode L).length ≤ m ↔ L.toNat < 2 ^ (7 * m) := by
  constructor
  · intro hle
    exact (toNat_lt_two_pow_length_hdrEncode L).trans_le (Nat.pow_le_pow_right (by decide) (by omega))
  · intro hlt
    by_cases h : L = 0
    · rw [h]
      exact hm
    · have := (Nat.pow_lt_pow_iff_right (by decide)).mp ((two_pow_length_hdrEncode_le_toNat h).trans_lt hlt)
      omega

theorem length_hdrEncode_eq_of_canonical {s : Bytes} {h : Nat} {n : Word} (hd : hdrDecode s = .ok h n)
    (hc : Canonical (s.take h)) : (hdrEncode n).length = h := by
  obtain ⟨hone, -⟩ := hdrDecode_eq_ok_iff.mp hd
  have hle := (length_hdrEncode_le_iff hone).mpr (toNat_lt_two_pow_of_hdrDecode hd)
  rcases (canonical_take_iff_of_hdrDecode hd).mp hc with rfl | hfull
  · exact Nat.le_antisymm hle (one_le_length_hdrEncode n)
  · have := (Nat.pow_lt_pow_iff_right (by decide)).mp (hfull.trans_lt (toNat_lt_two_pow_length_hdrEncode n))
    omega

/-- Settles O13: a canonical header has the byte count of the encoding and so its bytes; any other has a digit too many. -/
theorem hdrReencode : Obligations.HdrReencode := by
  intro s h n hd
  constructor
  · intro hc
    have hlen := length_hdrEncode_eq_of_canonical hd hc
    have hround := hdrDecode_hdrEncode (toNat_le_maxLen_of_hdrDecode hd)
    rw [hlen] at hround
    rw [← take_eq_take_of_hdrDecode hround hd, ← hlen, List.take_length]
  · intro hc
    obtain ⟨hone, -⟩ := hdrDecode_eq_ok_iff.mp hd
    rw [canonical_take_iff_of_hdrDecode hd, not_or, Nat.not_le] at hc
    obtain ⟨hne, hlt⟩ := hc
    have := (length_hdrEncode_le_iff (by omega)).mpr hlt
    omega

end Sys2Proof.Machine
end

section
/-! The header codec commands (40_header_codec.md R101, R106). -/

namespace Sys2Proof.Machine

/-- Settles O14: the two branches of HDR_ENC, and the corner cases by evaluation. -/
theorem hdrEncResponds : Obligations.HdrEncResponds := by
  refine ⟨fun s L hf hL => ?_, fun s L hf hL => ?_, by decide⟩
  · rw [exec_hdrEnc, whenLive_live hf, if_neg (Nat.not_lt.mpr hL)]
    rfl
  · rw [exec_hdrEnc, whenLive_live hf, if_pos hL]
    rfl

theorem exec_hdrDec_live (data : Bytes) {s : State} (hf : s.fault = none) :
    exec (.hdrDec data) s = .next { s with sent := s.sent ++ [hdrDecResponse data] } := by
  rw [exec_hdrDec, whenLive_live hf]
  rfl

/-- R106: the status of HDR_DEC is the outcome of the header decode, and at status NONE the other two fields are its result. -/
theorem hdrDecResponse_spec (data : Bytes) : ∃ (status : ErrCode) (hlen dlen : Word),
    hdrDecResponse data = .hdrDec status hlen dlen ∧
    (status = .headerInsufficient ↔ hdrDecode data = .insufficient) ∧
    (status = .headerTooLarge ↔ hdrDecode data = .tooLarge) ∧
    (status = .none ↔ ∃ h n, hdrDecode data = .ok h n) ∧
    (status = .none → hdrDecode data = .ok hlen.toNat dlen) := by
  unfold hdrDecResponse
  cases hd : hdrDecode data with
  | ok h n =>
    obtain ⟨-, hnine, -⟩ := hdrDecode_eq_ok_iff.mp hd
    have hh : (BitVec.ofNat 64 h).toNat = h := toNat_ofNat_of_le_maxLen (hnine.trans (by decide))
    exact ⟨_, _, _, rfl, by simp, by simp, by simp, by simp [hh]⟩
  | insufficient => exact ⟨_, _, _, rfl, by simp, by simp, by simp, by simp⟩
  | tooLarge => exact ⟨_, _, _, rfl, by simp, by simp, by simp, by simp⟩

/-- Settles O15: the outcome of the header decode fixes the status, and the fields where there is a header. -/
theorem hdrDecResponds : Obligations.HdrDecResponds := by
  intro s data hf
  obtain ⟨status, hlen, dlen, hr, hins, hlarge, hok, hval⟩ := hdrDecResponse_spec data
  rw [exec_hdrDec_live data hf, hr]
  refine ⟨fun h n hd => ?_, fun hd => ?_, fun hd => ?_⟩
  · obtain rfl := hok.mpr ⟨h, n, hd⟩
    obtain ⟨rfl, rfl⟩ := HdrResult.ok.inj (hd.symm.trans (hval rfl))
    exact ⟨hlen, rfl, rfl⟩
  · obtain rfl := hins.mpr hd
    exact ⟨hlen, dlen, rfl⟩
  · obtain rfl := hlarge.mpr hd
    exact ⟨hlen, dlen, rfl⟩

/-- Settles O16: each status names an outcome of the header decode, and the bytes decide the outcome. -/
theorem hdrDecStatusByOperand : Obligations.HdrDecStatusByOperand := by
  intro s data hf
  obtain ⟨status, hlen, dlen, hr, hins, hlarge, hok, hval⟩ := hdrDecResponse_spec data
  refine ⟨status, hlen, dlen, ?_, hins.trans hdrDecode_eq_insufficient_iff, hlarge.trans hdrDecode_eq_tooLarge_iff,
    hok.trans exists_hdrDecode_eq_ok_iff, fun h0 => hdrDecode_eq_ok_iff.mp (hval h0)⟩
  rw [exec_hdrDec_live data hf, hr]

end Sys2Proof.Machine
end

section
/-! The frame codec (41_frame_codec.md R120 to R125): the outcome of a frame decode by the outcome of its header decode, the round trip,
cut-off frames, and the two commands. -/

namespace Sys2Proof.Machine

/- ## The header decode of the first bytes -/

/-- R107 items 1 and 2: of bytes that begin with a header, any first part decodes to that header too, unless it ends inside the header
and is insufficient. -/
theorem hdrDecode_of_append {s t : Bytes} {h : Nat} {n : Word} (hd : hdrDecode (s ++ t) = .ok h n) :
    hdrDecode s = if s.length < h then .insufficient else .ok h n := by
  by_cases hs : hdrDecode s = .insufficient
  · rw [hs, if_pos]
    by_contra hlen
    obtain ⟨hone, -, -, -, hlast, -⟩ := hdrDecode_eq_ok_iff.mp hd
    obtain ⟨-, hcont⟩ := hdrDecode_eq_insufficient_iff.mp hs
    rw [List.getD_append _ _ _ _ (by omega), forall_mem_iff_getD.mp hcont _ (by omega)] at hlast
    cases hlast
  · have hsame : hdrDecode s = .ok h n := (hdrDecodeLoop_append t hs).symm.trans hd
    obtain ⟨-, -, hlen, -⟩ := hdrDecode_eq_ok_iff.mp hsame
    rw [hsame, if_neg (by omega)]

/- ## The outcomes of a frame decode (R124) -/

theorem frmDecode_of_insufficient {s : Bytes} (hd : hdrDecode s = .insufficient) : frmDecode s = .headerInsufficient := by
  simp only [frmDecode, hd]

theorem frmDecode_of_tooLarge {s : Bytes} (hd : hdrDecode s = .tooLarge) : frmDecode s = .headerTooLarge := by
  simp only [frmDecode, hd]

section Header
variable {s : Bytes} {h : Nat} {n : Word} (hd : hdrDecode s = .ok h n)
include hd

theorem frmDecode_of_ok : frmDecode s =
    if s.length < h + n.toNat then .insufficient else .ok ((s.drop h).take n.toNat) (h + n.toNat) := by
  simp only [frmDecode, hd]

theorem frmDecode_of_short (hlen : s.length < h + n.toNat) : frmDecode s = .insufficient :=
  (frmDecode_of_ok hd).trans (if_pos hlen)

theorem frmDecode_of_fits (hlen : h + n.toNat ≤ s.length) :
    frmDecode s = .ok ((s.drop h).take n.toNat) (h + n.toNat) :=
  (frmDecode_of_ok hd).trans (if_neg (Nat.not_lt.mpr hlen))

end Header

/-- A frame is found exactly where a header is and its payload is there in full. -/
theorem frmDecode_eq_ok_iff {s p : Bytes} {c : Nat} : frmDecode s = .ok p c ↔
    ∃ h n, hdrDecode s = .ok h n ∧ h + n.toNat ≤ s.length ∧ p = (s.drop h).take n.toNat ∧ c = h + n.toNat := by
  constructor
  · intro hf
    cases hd : hdrDecode s with
    | insufficient => simp [frmDecode_of_insufficient hd] at hf
    | tooLarge => simp [frmDecode_of_tooLarge hd] at hf
    | ok h n =>
      rcases Nat.lt_or_ge s.length (h + n.toNat) with hlen | hlen
      · simp [frmDecode_of_short hd hlen] at hf
      · rw [frmDecode_of_fits hd hlen] at hf
        obtain ⟨rfl, rfl⟩ := FrmResult.ok.inj hf
        exact ⟨h, n, rfl, hlen, rfl, rfl⟩
  · rintro ⟨h, n, hd, hlen, rfl, rfl⟩
    exact frmDecode_of_fits hd hlen

theorem length_take_drop {s : Bytes} {h n : Nat} (hlen : h + n ≤ s.length) : ((s.drop h).take n).length = n :=
  List.length_take_of_le (by rw [List.length_drop]; omega)

/- ## Encoded frames -/

/-- R121: the length law. -/
theorem length_frmEncode (p : Bytes) :
    (frmEncode p).length = (hdrEncode (BitVec.ofNat 64 p.length)).length + p.length := List.length_append

/-- The header of an encoded frame, whatever follows the frame. -/
theorem hdrDecode_frmEncode_append {p : Bytes} (hp : p.length ≤ Config.maxLen) (t : Bytes) :
    hdrDecode (frmEncode p ++ t) = .ok (hdrEncode (BitVec.ofNat 64 p.length)).length (BitVec.ofNat 64 p.length) := by
  rw [frmEncode, List.append_assoc]
  exact hdrDecode_hdrEncode_append ((toNat_ofNat_of_le_maxLen hp).trans_le hp) (p ++ t)

/-- R125 item 1. -/
theorem frmDecode_frmEncode_append {p : Bytes} (hp : p.length ≤ Config.maxLen) (t : Bytes) :
    frmDecode (frmEncode p ++ t) = .ok p (frmEncode p).length := by
  have hn := toNat_ofNat_of_le_maxLen hp
  have hlen := length_frmEncode p
  rw [frmDecode_of_fits (hdrDecode_frmEncode_append hp t) (by rw [hn, List.length_append]; omega), hn, ← hlen, frmEncode,
    List.append_assoc, List.drop_left, List.take_left]

/-- Settles O19: the header round trip finds the header, and the payload stands behind it. -/
theorem frameRoundTrip : Obligations.FrameRoundTrip := fun p t hp =>
  ⟨frmDecode_frmEncode_append hp t, length_frmEncode p⟩

/-- Settles O20: a cut-off frame either ends inside the header or holds the header and lacks payload bytes. -/
theorem frameTruncationIsDetected : Obligations.FrameTruncationIsDetected := by
  intro p q r hp hsplit hr
  have hn := toNat_ofNat_of_le_maxLen hp
  have hwhole := hdrDecode_frmEncode_append hp []
  rw [List.append_nil, hsplit] at hwhole
  have hq := hdrDecode_of_append hwhole
  split
  · next hshort => exact frmDecode_of_insufficient (hq.trans (if_pos hshort))
  · next hlong =>
    refine frmDecode_of_short (hq.trans (if_neg hlong)) ?_
    have hlen := congrArg List.length hsplit
    rw [length_frmEncode, List.length_append] at hlen
    have := List.length_pos_iff.mpr hr
    omega

/-- Settles O21: the header decode's own bounds, and the decoded frame cut out of the operand. -/
theorem frameDecodeAdvances : Obligations.FrameDecodeAdvances := by
  refine ⟨fun s hlen hcont => ?_, fun s p c hf => ?_⟩
  · exact frmDecode_of_tooLarge (hdrDecode_eq_tooLarge_iff.mpr ⟨hlen, (forall_mem_take_iff_getD (by omega)).mpr hcont⟩)
  · obtain ⟨h, n, hd, hlen, rfl, rfl⟩ := frmDecode_eq_ok_iff.mp hf
    obtain ⟨hone, -⟩ := hdrDecode_eq_ok_iff.mp hd
    rw [length_take_drop hlen, Nat.add_sub_cancel]
    refine ⟨by omega, hlen, Nat.le_add_left _ _, ?_⟩
    rw [← List.take_add, List.take_append_drop]

/- ## The commands -/

/-- Settles O17: the two branches of FRM_ENC. -/
theorem frmEncResponds : Obligations.FrmEncResponds := by
  refine ⟨fun s p hf hp => ?_, fun s p hf hp => ?_⟩
  · rw [exec_frmEnc, whenLive_live hf, if_neg (Nat.not_lt.mpr hp)]
    rfl
  · rw [exec_frmEnc, whenLive_live hf, if_pos hp]
    rfl

theorem exec_frmDec_live (data : Bytes) {s : State} (hf : s.fault = none) :
    exec (.frmDec data) s = .next { s with sent := s.sent ++ [frmDecResponse data] } := by
  rw [exec_frmDec, whenLive_live hf]
  rfl

/-- R124: at status NONE the offset is the header's byte count, since the payload is there in full. -/
theorem frmDecResponse_of_fits {data : Bytes} {h : Nat} {n : Word} (hd : hdrDecode data = .ok h n)
    (hlen : h + n.toNat ≤ data.length) : frmDecResponse data =
      .frmDec .none ((data.drop h).take n.toNat) (BitVec.ofNat 64 h) (BitVec.ofNat 64 (h + n.toNat)) := by
  simp only [frmDecResponse, frmDecode_of_fits hd hlen, length_take_drop hlen, Nat.add_sub_cancel]

/-- Settles O18, by the outcome of the frame decode; `h + n` fits 64 bits because `h` is at most 9 and `n` at most MAX_LEN. -/
theorem frmDecResponds : Obligations.FrmDecResponds := by
  intro s data hf
  rw [exec_frmDec_live data hf]
  refine ⟨fun hd => ?_, fun hd => ?_, fun h n hd hlen => ?_, fun h n hd hlen => ?_⟩
  · exact ⟨[], 0, 0, by simp only [frmDecResponse, frmDecode_of_insufficient hd]⟩
  · exact ⟨[], 0, 0, by simp only [frmDecResponse, frmDecode_of_tooLarge hd]⟩
  · exact ⟨[], 0, 0, by simp only [frmDecResponse, frmDecode_of_short hd hlen]⟩
  · obtain ⟨-, hnine, -⟩ := hdrDecode_eq_ok_iff.mp hd
    have hsum : h + n.toNat < 2 ^ 64 := by
      have hn : n.toNat ≤ 2 ^ 63 - 1 := toNat_le_maxLen_of_hdrDecode hd
      omega
    refine ⟨BitVec.ofNat 64 h, BitVec.ofNat 64 (h + n.toNat), ?_, ?_, by rw [frmDecResponse_of_fits hd hlen]⟩
    · exact Nat.mod_eq_of_lt (by omega)
    · exact Nat.mod_eq_of_lt hsum

end Sys2Proof.Machine
end

section
/-! The steps of a SCAN (42_scanner.md R144 to R154): its acceptance, each outcome of the EVAL step, and the taking in of a
response. -/

namespace Sys2Proof.Machine

/-- Settles O23: the accepting step by the scanner's state. -/
theorem scanIsAccepted : Obligations.ScanIsAccepted := by
  intro s hf
  rw [exec_scan, whenLive_live hf]
  refine ⟨fun h => ?_, fun h => ?_, fun h => ?_⟩
  · rw [scanAccept_idle h]
    rfl
  · rw [scanAccept_done h]
    rfl
  · rw [scanAccept_busy ((busy_iff s).mpr h)]
    rfl

/- ## The EVAL step -/

theorem fits_evalStep {s : State} {h : Nat} {n : Word} (hd : hdrDecode s.buf = .ok h n)
    (hlimit : h + n.toNat ≤ s.limit.toNat) (hlen : h + n.toNat ≤ s.buf.length) : evalStep s = emit h n.toNat s := by
  simp only [evalStep, hd, if_neg (Nat.not_lt.mpr hlimit), if_pos hlen]

theorem tooLarge_evalStep {s : State} (hd : hdrDecode s.buf = .tooLarge) (hlimit : 9 ≤ s.limit.toNat) :
    evalStep s = terminate .headerTooLarge s := by
  simp only [evalStep, hd, if_neg (Nat.not_lt.mpr hlimit)]

/-- R151: without a signal the scanner asks for CHUNK bytes. -/
theorem needMore_of_quiet {s : State} (hp : s.pending = .none) : needMore s = srcRequest s.chunk s := by
  simp only [needMore, hp]

/-- The code a latched signal ends the SCAN with (R151). -/
def signalCode (s : State) : ErrCode :=
  if s.pending = .err then .sourceError else if s.buf = [] then .none else .endMidFrame

/-- R151: a latched signal ends the SCAN. -/
theorem needMore_of_signal {s : State} (hp : s.pending ≠ .none) : needMore s = terminate (signalCode s) s := by
  obtain ⟨h0, -⟩ | ⟨he, h⟩ | ⟨he, hb, h⟩ | ⟨he, hb, h⟩ := needMore_cases s
  · exact absurd h0 hp
  · simp [h, signalCode, he]
  · simp [h, signalCode, he, hb]
  · simp [h, signalCode, he, hb]

/-- Settles O24: the scanner's move is the EVAL step, and the frame is there and fits. -/
theorem evalEmitsACompleteFrame : Obligations.EvalEmitsACompleteFrame := by
  intro s h n hf ht he hd hlimit hlen
  rw [step_scanner hf ht he, fits_evalStep (s := spendTurn s) hd hlimit hlen]
  rfl

theorem signalCode_ne_limitExceeded (s : State) : signalCode s ≠ .limitExceeded := by
  unfold signalCode
  split
  · simp
  · split <;> simp

/-- Settles O25: the limit cases end the scan, and each of the other outcomes of the EVAL step has another code. -/
theorem limitExceededExactlyThen : Obligations.LimitExceededExactlyThen := by
  intro s hf ht he herr
  rw [step_scanner hf ht he]
  refine ⟨fun hcase => ?_, fun hcase => ⟨_, rfl, ?_⟩⟩
  · rw [limitCase_evalStep (s := spendTurn s) hcase]
    rfl
  · obtain ⟨hcase', -⟩ | ⟨-, -, h⟩ | ⟨k, n, -, -, -, h⟩ | ⟨-, h⟩ := evalStep_cases (spendTurn s)
    · exact absurd hcase' hcase
    · simp [h]
    · simp [h, herr]
    · rw [h]
      by_cases hp : s.pending = .none
      · rw [needMore_of_quiet (s := spendTurn s) hp]
        simp [herr]
      · rw [needMore_of_signal (s := spendTurn s) hp, terminate_err]
        exact signalCode_ne_limitExceeded _

/-- Settles O26: such a buffer is the decoder's too-large outcome. -/
theorem tooLargeHeaderTerminates : Obligations.TooLargeHeaderTerminates := by
  intro s hf ht he hlimit hlen hcont
  have hd : hdrDecode s.buf = .tooLarge :=
    hdrDecode_eq_tooLarge_iff.mpr ⟨hlen, (forall_mem_take_iff_getD (by omega)).mpr hcont⟩
  rw [step_scanner hf ht he, tooLarge_evalStep (s := spendTurn s) hd hlimit]
  rfl

/-- Settles O27: an undecided buffer needs more, and `pending` says what that is. -/
theorem undecidedBufferNeedsMore : Obligations.UndecidedBufferNeedsMore := by
  intro s hf ht he hu
  rw [step_scanner hf ht he, undecided_evalStep (s := spendTurn s) hu]
  refine ⟨fun hp => ?_, fun hp => ?_⟩
  · rw [needMore_of_quiet (s := spendTurn s) hp]
    rfl
  · rw [needMore_of_signal (s := spendTurn s) hp]
    rfl

/- ## Taking in a response -/

theorem takeResponse_of_fits {s : State} {r : SrcResponse} {n : Word} (hreq : s.req = some n)
    (hlen : r.data.length ≤ n.toNat) : takeResponse r s = endWait (latchSignal r.sig (bufAppend r.data s)) := by
  simp only [takeResponse, hreq, if_neg (Nat.not_lt.mpr hlen)]

/-- Settles O28, by the response's signal. -/
theorem responseIsTakenIn : Obligations.ResponseIsTakenIn := by
  intro s n r rest hf ht hscript _ hreq hlen
  rw [step_source hf ht hscript, takeResponse_of_fits (n := n) (by simpa using hreq) hlen]
  cases r.sig <;> rfl

/-- Settles O30: the empty response is taken in, and the buffer, undecided when the request was sent, still is; by the invariants the
request was for CHUNK bytes, as the new one is. -/
theorem zeroByteResponseIsAskedAgain : Obligations.ZeroByteResponseIsAskedAgain := by
  intro s rest more hi hf hw hscript hturns
  obtain ⟨n, hreq⟩ := Option.ne_none_iff_exists'.mp (hi.reqIffWait.mpr hw)
  obtain rfl := hi.reqIsChunk n hreq
  have hread : step s = .next { s with req := none, fsm := .eval, script := rest, turns := .scanner :: more } := by
    simpa [hturns] using responseIsTakenIn s _ _ rest hf (nextTurn_cons hturns) hscript hw hreq (Nat.zero_le _)
  rw [runSteps_succ hread, runSteps_succ ((undecidedBufferNeedsMore { s with
    req := none, fsm := .eval, script := rest, turns := .scanner :: more } hf rfl rfl (hi.waitUndecided hw)).1
    (hi.pending_eq_none hw))]
  simp only [runSteps, List.tail_cons, ← hw, ← hreq]

end Sys2Proof.Machine
end

section
/-! What a step does to the registers (42_scanner.md R145), said once for every agent; and from it the transitions of the scanner, the
events that change a flag (10_state.md R39), and what only a reset undoes (70_reset_and_hazards.md R231). -/

namespace Sys2Proof.Machine

/- ## The kinds of step -/

/-- What a step from `s` can lead to. -/
inductive Transition (s : State) : State → Prop where
  | reset {src : List SrcResponse} (ht : nextTurn s = some (.reset src)) : Transition s (resetBlock src (spendTurn s))
  /-- Nobody moves, an agent has no move, a fault is raised, or a command responds. -/
  | keeps {t : State} (hsame : SameRegisters s t)
      (hsent : t.sent = s.sent ∨ ∃ r, t.sent = s.sent ++ [r] ∧ ∀ b, r = .scan b → s.fsm = .done) : Transition s t
  /-- CFG_LIMIT or CFG_CHUNK. -/
  | configures {t : State} (limit chunk : Word) (hb : busy s = false) (hs : s.started = false)
      (hsame : SameRegisters (setChunk chunk (setLimit limit s)) t) : Transition s t
  /-- SCAN in IDLE. -/
  | accepts {rest : List Bytes} (ht : nextTurn s = some .host) (hc : s.cmds.head? = some [0x10#8]) (hidle : s.fsm = .idle) :
      Transition s (startScan (setCmds rest (spendTurn s)))
  /-- The EVAL step. -/
  | evaluates (ht : nextTurn s = some .scanner) (he : s.fsm = .eval) : Transition s (evalStep (spendTurn s))
  /-- The taking in of a response. -/
  | takesIn {n : Word} {r : SrcResponse} {rest : List SrcResponse} (ht : nextTurn s = some .source)
      (hscript : s.script = r :: rest) (hreq : s.req = some n) (hlen : r.data.length ≤ n.toNat) :
      Transition s (endWait (latchSignal r.sig (bufAppend r.data (setScript rest (spendTurn s)))))

theorem transition_hostMove {s t : State} (ht : nextTurn s = some .host) (h : hostMove (spendTurn s) = .next t) :
    Transition s t := by
  obtain ⟨-, rfl⟩ | ⟨c, rest, hc, hrun⟩ := hostMove_cases h
  · exact .keeps (sameRegisters_spendTurn s) (.inl rfl)
  · have hsame : SameRegisters s (setCmds rest (spendTurn s)) :=
      sameRegisters_trans (sameRegisters_spendTurn s) (sameRegisters_setCmds rest _)
    obtain ⟨-, ⟨f, rfl⟩ | ⟨r, hr, rfl⟩ | ⟨v, hb, hs, rfl⟩ | ⟨v, -, hb, hs, rfl⟩ | ⟨rfl, hidle, rfl⟩⟩ := runCommand_cases hrun
    · exact .keeps (sameRegisters_trans hsame (sameRegisters_raiseFault f _)) (.inl rfl)
    · exact .keeps (sameRegisters_trans hsame (sameRegisters_respond r _)) (.inr ⟨r, rfl, hr⟩)
    · exact .configures v s.chunk hb hs (by constructor <;> rfl)
    · exact .configures s.limit v hb hs (by constructor <;> rfl)
    · exact .accepts ht (congrArg List.head? hc) hidle

theorem transition_sourceMove {s t : State} (ht : nextTurn s = some .source) (h : sourceMove (spendTurn s) = .next t) :
    Transition s t := by
  obtain ⟨-, rfl⟩ | ⟨r, rest, hscript, rfl⟩ := sourceMove_cases h
  · exact .keeps (sameRegisters_spendTurn s) (.inl rfl)
  · have hsame : SameRegisters s (setScript rest (spendTurn s)) :=
      sameRegisters_trans (sameRegisters_spendTurn s) (sameRegisters_setScript rest _)
    obtain ⟨-, h⟩ | ⟨n, -, -, h⟩ | ⟨n, hreq, hlen, h⟩ := takeResponse_cases r (setScript rest (spendTurn s)) <;> rw [h]
    · exact .keeps (sameRegisters_trans hsame (sameRegisters_raiseFault _ _)) (.inl rfl)
    · exact .keeps (sameRegisters_trans hsame (sameRegisters_raiseFault _ _)) (.inl rfl)
    · exact .takesIn ht hscript hreq hlen

theorem transition_of_step {s t : State} (h : step s = .next t) : Transition s t := by
  obtain ⟨src, ht, rfl⟩ | ⟨-, ⟨-, rfl⟩ | ⟨ht, hm⟩ | ⟨ht, hm⟩ | ⟨ht, hm⟩⟩ := step_cases h
  · exact .reset ht
  · exact .keeps (sameRegisters_refl _) (.inl rfl)
  · exact transition_hostMove ht hm
  · exact transition_sourceMove ht hm
  · obtain ⟨-, rfl⟩ | ⟨he, rfl⟩ := scannerMove_cases hm
    · exact .keeps (sameRegisters_spendTurn s) (.inl rfl)
    · exact .evaluates ht he

/-- Every EVAL step ends EVAL: it terminates, emits, or asks for more. -/
theorem evalStep_ends (s : State) :
    ((LimitCase s.limit.toNat s.buf ∨ hdrDecode s.buf = .tooLarge ∨ (Undecided s.limit.toNat s.buf ∧ s.pending ≠ .none)) ∧
      ∃ code, evalStep s = terminate code s) ∨
    (∃ h n, hdrDecode s.buf = .ok h n ∧ h + n.toNat ≤ s.limit.toNat ∧ h + n.toNat ≤ s.buf.length ∧
      evalStep s = emit h n.toNat s) ∨
    (Undecided s.limit.toNat s.buf ∧ s.pending = .none ∧ evalStep s = srcRequest s.chunk s) := by
  obtain ⟨hc, h⟩ | ⟨hc, -, h⟩ | hemit | ⟨hu, h⟩ := evalStep_cases s
  · exact .inl ⟨.inl hc, _, h⟩
  · exact .inl ⟨.inr (.inl hc), _, h⟩
  · exact .inr (.inl hemit)
  · by_cases hp : s.pending = .none
    · exact .inr (.inr ⟨hu, hp, h.trans (needMore_of_quiet hp)⟩)
    · exact .inl ⟨.inr (.inr ⟨hu, hp⟩), _, h.trans (needMore_of_signal hp)⟩

/- ## The scanner's transitions -/

theorem Inv.waitRead_of_req {s : State} (hi : Inv s) {n : Word} (h : s.req = some n) : s.fsm = .waitRead :=
  hi.reqIffWait.mp (by simp [h])

/-- A step where nobody is to move. -/
theorem step_nobody {s : State} (hf : s.fault = none) (ht : nextTurn s = none) : step s = .next s := by
  simp only [step, takeStep, hf, ht]

/-- Settles O31: of the kinds of step that are left, only the one that keeps the registers starts in WAIT_READ. -/
theorem waitEndsOnlyByAResponse : Obligations.WaitEndsOnlyByAResponse := by
  refine ⟨fun s t hw h hsource hr => ?_, fun s hf _ ht => step_nobody hf ht⟩
  cases transition_of_step h with
  | reset ht => exact absurd ht (hr _)
  | keeps hsame hsent =>
    refine ⟨hsame, hsent.imp_right ?_⟩
    rintro ⟨r, hsent, hdone⟩
    exact ⟨r, hsent, fun b hb => absurd (hdone b hb) (by simp [hw])⟩
  | configures _ _ hb => simp [busy, hw] at hb
  | accepts _ _ hidle => simp [hw] at hidle
  | evaluates _ he => simp [hw] at he
  | takesIn ht => exact absurd ht hsource

/-- R155: in DONE every step but a reset keeps the registers. -/
theorem sameRegisters_of_done {s t : State} (hi : Inv s) (hdone : s.fsm = .done) (h : step s = .next t)
    (hr : ∀ src, nextTurn s ≠ some (.reset src)) : SameRegisters s t := by
  cases transition_of_step h with
  | reset ht => exact absurd ht (hr _)
  | keeps hsame => exact hsame
  | configures _ _ _ hs => simp [hi.startedUnlessIdle, hdone] at hs
  | accepts _ _ hidle => simp [hdone] at hidle
  | evaluates _ he => simp [hdone] at he
  | takesIn _ _ hreq => simp [hi.waitRead_of_req hreq] at hdone

/-- Settles O32: DONE keeps every register, and SCAN there is an answer only. -/
theorem doneIsAbsorbing : Obligations.DoneIsAbsorbing := by
  refine ⟨fun s t hi hdone h hr => ?_, fun s hf => (scanIsAccepted s hf).2.1⟩
  have hsame := sameRegisters_of_done hi hdone h hr
  exact ⟨hsame.fsm.trans hdone, hsame.err, hsame.srcErr, hsame.buf, hsame.pending, hsame.frameValid⟩

/-- R205: only a reset moves a faulted block. -/
theorem fault_eq_none_of_step {s t : State} (h : step s = .next t) (hr : ∀ src, nextTurn s ≠ some (.reset src)) :
    s.fault = none := by
  obtain ⟨src, ht, -⟩ | ⟨hf, -⟩ := step_cases h
  · exact absurd ht (hr src)
  · exact hf

/-- Settles O33: the kinds of step that change `fsm` are the rows of R145, with three ways out of EVAL. -/
theorem scannerTransitions : Obligations.ScannerTransitions := by
  intro s t hi h
  constructor
  · cases transition_of_step h with
    | reset ht => exact .inr (.inl ⟨_, ht, rfl⟩)
    | keeps hsame => exact .inl hsame.fsm
    | configures _ _ _ _ hsame => exact .inl hsame.fsm
    | accepts ht hc hidle => exact .inr (.inr (.inl ⟨ht, hc, hidle, rfl⟩))
    | evaluates ht he =>
      obtain ⟨hcause, code, h⟩ | ⟨k, n, hd, hlimit, hlen, h⟩ | ⟨hu, hp, h⟩ := evalStep_ends (spendTurn s) <;> rw [h]
      · exact .inr (.inr (.inr (.inr (.inl ⟨ht, he, rfl, rfl, hcause⟩))))
      · exact .inr (.inr (.inr (.inl ⟨ht, he, rfl, rfl, k, n, hd, hlimit, hlen⟩)))
      · exact .inr (.inr (.inr (.inr (.inr (.inl ⟨ht, he, rfl, rfl, hu, hp⟩)))))
    | takesIn ht hscript hreq hlen =>
      exact .inr (.inr (.inr (.inr (.inr (.inr ⟨ht, hi.waitRead_of_req hreq, rfl, _, _, _, hreq, hscript, hlen⟩)))))
  · intro ht he
    have hf := fault_eq_none_of_step h (by simp [ht])
    obtain rfl := Host.Outcome.next.inj ((step_scanner hf ht he).symm.trans h)
    obtain ⟨-, code, h⟩ | ⟨k, n, -, -, -, h⟩ | ⟨-, -, h⟩ := evalStep_ends (spendTurn s) <;> simp [h]

/-- Settles O36: of the kinds of step only an emission sets `frame_valid`. -/
theorem emittedFramesFitTheLimit : Obligations.EmittedFramesFitTheLimit := by
  intro s t h hclear hset
  cases transition_of_step h with
  | reset => simp at hset
  | keeps hsame => simp [hsame.frameValid, hclear] at hset
  | configures _ _ _ _ hsame => simp [hsame.frameValid, hclear] at hset
  | accepts => simp at hset
  | evaluates =>
    obtain ⟨-, code, h⟩ | ⟨k, n, hd, hlimit, hlen, h⟩ | ⟨-, -, h⟩ := evalStep_ends (spendTurn s) <;> rw [h] at hset ⊢
    · simp at hset
    · exact ⟨k, n, hd, hlimit, length_take_drop hlen, (take_append_emit k n.toNat (spendTurn s)).symm⟩
    · simp [hclear] at hset
  | takesIn => simp [hclear] at hset

/- ## The flags -/

theorem terminates_of_done_set {s t : State} (hi : Inv s) (h : step s = .next t) (hs : s.fsm ≠ .done) (ht : t.fsm = .done) :
    nextTurn s = some .scanner ∧ t.sent = s.sent ++ [.scan false] := by
  obtain hf | ⟨-, -, hf⟩ | ⟨-, -, -, hf⟩ | ⟨-, -, hf, -⟩ | ⟨hscan, -, -, hsent, -⟩ | ⟨-, -, hf, -⟩ | ⟨-, -, hf, -⟩ :=
    (scannerTransitions s t hi h).1
  · exact absurd (hf.symm.trans ht) hs
  · simp [hf] at ht
  · simp [hf] at ht
  · simp [hf] at ht
  · exact ⟨hscan, hsent⟩
  · simp [hf] at ht
  · simp [hf] at ht

section Flags
variable {s t : State} (hi : Inv s) (h : step s = .next t) (hr : ∀ src, nextTurn s ≠ some (.reset src))
include h hr

theorem started_of_step (hs : s.started = true) : t.started = true :=
  (configurationLocksAtTheFirstScan s t hs h hr).2.2

theorem emits_of_frameValid_set (hs : s.frameValid = false) (ht : t.frameValid = true) :
    nextTurn s = some .scanner ∧ t.sent = s.sent ++ [.scan true] := by
  cases transition_of_step h with
  | reset hreset => exact absurd hreset (hr _)
  | keeps hsame => simp [hsame.frameValid, hs] at ht
  | configures _ _ _ _ hsame => simp [hsame.frameValid, hs] at ht
  | accepts => simp at ht
  | evaluates hscan =>
    obtain ⟨-, code, h⟩ | ⟨k, n, -, -, -, h⟩ | ⟨-, -, h⟩ := evalStep_ends (spendTurn s) <;> rw [h] at ht ⊢
    · simp at ht
    · exact ⟨hscan, rfl⟩
    · simp [hs] at ht
  | takesIn => simp [hs] at ht

include hi

theorem accepts_of_busy_set (hs : busy s = false) (ht : busy t = true) :
    nextTurn s = some .host ∧ s.cmds.head? = some [0x10#8] ∧ s.fsm = .idle := by
  rw [not_busy_iff] at hs
  rw [busy_iff] at ht
  obtain hf | ⟨src, hreset, -⟩ | ⟨hhost, hc, hidle, -⟩ | ⟨-, he, -⟩ | ⟨-, he, -⟩ | ⟨-, he, -⟩ | ⟨-, hw, -⟩ :=
    (scannerTransitions s t hi h).1
  · rw [hf] at ht
    obtain hs | hs := hs <;> simp [hs] at ht
  · exact absurd hreset (hr src)
  · exact ⟨hhost, hc, hidle⟩
  · simp [he] at hs
  · simp [he] at hs
  · simp [he] at hs
  · simp [hw] at hs

theorem responds_of_busy_cleared (hs : busy s = true) (ht : busy t = false) :
    nextTurn s = some .scanner ∧ ∃ ok, t.sent = s.sent ++ [.scan ok] := by
  rw [busy_iff] at hs
  rw [not_busy_iff] at ht
  obtain hf | ⟨src, hreset, -⟩ | ⟨-, -, -, he⟩ | ⟨hscan, -, -, hsent, -⟩ | ⟨hscan, -, -, hsent, -⟩ | ⟨-, -, hw, -⟩ |
    ⟨-, -, he, -⟩ := (scannerTransitions s t hi h).1
  · rw [hf] at ht
    obtain hs | hs := hs <;> simp [hs] at ht
  · exact absurd hreset (hr src)
  · simp [he] at ht
  · exact ⟨hscan, true, hsent⟩
  · exact ⟨hscan, false, hsent⟩
  · simp [hw] at ht
  · simp [he] at ht

theorem accepts_of_started_set (hs : s.started = false) (ht : t.started = true) :
    nextTurn s = some .host ∧ s.cmds.head? = some [0x10#8] ∧ s.fsm = .idle := by
  cases transition_of_step h with
  | reset hreset => exact absurd hreset (hr _)
  | keeps hsame => simp [hsame.started, hs] at ht
  | configures _ _ _ _ hsame => simp [hsame.started, hs] at ht
  | accepts hhost hc hidle => exact ⟨hhost, hc, hidle⟩
  | evaluates _ he => simp [hi.startedUnlessIdle, he] at hs
  | takesIn => simp [hs] at ht

theorem accepts_of_frameValid_cleared (hs : s.frameValid = true) (ht : t.frameValid = false) :
    nextTurn s = some .host ∧ s.cmds.head? = some [0x10#8] ∧ s.fsm = .idle := by
  cases transition_of_step h with
  | reset hreset => exact absurd hreset (hr _)
  | keeps hsame => simp [hsame.frameValid, hs] at ht
  | configures _ _ _ _ hsame => simp [hsame.frameValid, hs] at ht
  | accepts hhost hc hidle => exact ⟨hhost, hc, hidle⟩
  | evaluates _ he => simp [hi.validIdle hs] at he
  | takesIn => simp [hs] at ht

/-- `pending` changes only by a response, and a signal latched before keeps the scanner from waiting for one. -/
theorem pending_eq_or_takesIn :
    t.pending = s.pending ∨
    (s.pending = .none ∧ nextTurn s = some .source ∧ ∃ r rest, s.script = r :: rest ∧ r.sig ≠ .ok) := by
  cases transition_of_step h with
  | reset hreset => exact absurd hreset (hr _)
  | keeps hsame => exact .inl hsame.pending
  | configures _ _ _ _ hsame => exact .inl hsame.pending
  | accepts => exact .inl rfl
  | evaluates =>
    obtain ⟨-, code, h⟩ | ⟨k, n, -, -, -, h⟩ | ⟨-, -, h⟩ := evalStep_ends (spendTurn s) <;> rw [h] <;> exact .inl rfl
  | @takesIn n r rest hsource hscript hreq =>
    by_cases hsig : r.sig = .ok
    · exact .inl (by simp [hsig])
    · exact .inr ⟨hi.pending_eq_none (hi.waitRead_of_req hreq), hsource, r, rest, hscript, hsig⟩

theorem pending_latched (hp : s.pending ≠ .none) : t.pending = s.pending :=
  (pending_eq_or_takesIn hi h hr).resolve_right fun hnew => hp hnew.1

end Flags

/-- Settles O52, flag by flag. -/
theorem flagsChangeOnlyAsNamed : Obligations.FlagsChangeOnlyAsNamed := fun _ _ hi h hr =>
  ⟨accepts_of_busy_set hi h hr, responds_of_busy_cleared hi h hr, started_of_step h hr, accepts_of_started_set hi h hr,
    fun hdone => (sameRegisters_of_done hi hdone h hr).fsm.trans hdone, terminates_of_done_set hi h,
    emits_of_frameValid_set h hr, accepts_of_frameValid_cleared hi h hr, pending_latched hi h hr,
    fun hp hnew => ((pending_eq_or_takesIn hi h hr).resolve_left fun heq => hnew (heq.trans hp)).2⟩

/-- Settles O54: `err` is set in DONE only, which keeps it. -/
theorem onlyResetClears : Obligations.OnlyResetClears := fun _ _ hi h hr =>
  ⟨fault_eq_none_of_step h hr, fun herr => (sameRegisters_of_done hi (hi.errDone herr) h hr).err, started_of_step h hr,
    pending_latched hi h hr⟩

end Sys2Proof.Machine
end

section
/-! A SCAN in progress and the reference semantics (42_scanner.md R159 to R162): while the buffer decides nothing the scanner reads one
more response, which the reference does not see, and when the buffer or a signal decides, both decide the same. -/

namespace Sys2Proof.Machine

/- ## The reference on a stream that begins with the buffer -/

/-- R107 item 1: a header that is too large stays too large. -/
theorem hdrDecode_append_of_tooLarge {s : Bytes} (hd : hdrDecode s = .tooLarge) (rest : Bytes) :
    hdrDecode (s ++ rest) = .tooLarge := by
  obtain ⟨-, hlarge, -⟩ := hdrDecodeIsPrefixStable
  exact hlarge s rest hd

/-- The cases of LIMIT_EXCEEDED stay such cases whatever follows the buffer. -/
theorem scanOne_of_limitCase {limit : Nat} {buf : Bytes} (h : LimitCase limit buf) (rest : Bytes) (sig : Signal) :
    scanOne (buf ++ rest) sig limit = .stop .limitExceeded none := by
  obtain ⟨k, n, hd, hlimit⟩ | ⟨hd, hlimit⟩ | ⟨hd, hlimit⟩ := h
  · simp only [scanOne, hdrDecode_append hd rest, if_pos hlimit]
  · cases hall : hdrDecode (buf ++ rest) with
    | ok k n =>
      have hinside : buf.length < k := by
        by_contra hlen
        rw [hdrDecode_of_append hall, if_neg hlen] at hd
        cases hd
      simp only [scanOne, hall, if_pos (show limit < k + n.toNat by omega)]
    | insufficient =>
      simp only [scanOne, hall, if_pos (hlimit.trans_le (List.length_append ▸ Nat.le_add_right _ _))]
    | tooLarge =>
      obtain ⟨hnine, -⟩ := hdrDecode_eq_insufficient_iff.mp hd
      simp only [scanOne, hall, if_pos (hlimit.trans_le hnine)]
  · simp only [scanOne, hdrDecode_append_of_tooLarge hd rest, if_pos hlimit]

theorem scanOne_of_tooLarge {limit : Nat} {buf : Bytes} (hd : hdrDecode buf = .tooLarge) (hlimit : 9 ≤ limit)
    (rest : Bytes) (sig : Signal) : scanOne (buf ++ rest) sig limit = .stop .headerTooLarge none := by
  simp only [scanOne, hdrDecode_append_of_tooLarge hd rest, if_neg (Nat.not_lt.mpr hlimit)]

theorem scanOne_of_fits {limit h : Nat} {n : Word} {buf : Bytes} (hd : hdrDecode buf = .ok h n)
    (hlimit : h + n.toNat ≤ limit) (hlen : h + n.toNat ≤ buf.length) (rest : Bytes) (sig : Signal) :
    scanOne (buf ++ rest) sig limit = .frame ((buf.drop h).take n.toNat) (buf.drop (h + n.toNat) ++ rest) := by
  have hpayload : n.toNat ≤ (buf.drop h).length := by rw [List.length_drop]; omega
  simp only [scanOne, hdrDecode_append hd rest, if_neg (Nat.not_lt.mpr hlimit), List.length_append,
    if_pos (hlen.trans (Nat.le_add_right _ _)), List.drop_append_of_le_length hlen,
    List.drop_append_of_le_length ((Nat.le_add_right _ _).trans hlen), List.take_append_of_le_length hpayload]

theorem scanOne_of_undecided {limit : Nat} {stream : Bytes} (h : Undecided limit stream) (sig : Signal) :
    scanOne stream sig limit = scanEnd stream sig := by
  unfold Undecided at h
  cases hd : hdrDecode stream with
  | ok k n =>
    simp only [hd] at h
    simp only [scanOne, hd, if_neg (Nat.not_lt.mpr h.1), if_neg (Nat.not_le.mpr h.2)]
  | insufficient =>
    simp only [hd] at h
    simp only [scanOne, hd, if_neg (Nat.not_lt.mpr h)]
  | tooLarge => simp [hd] at h

/- ## Moves without turns -/

theorem spendTurn_of_nil {s : State} (h : s.turns = []) : spendTurn s = s := by
  cases s
  cases h
  rfl

/-- Log entry 2: in EVAL the scanner moves. -/
theorem step_eval {s : State} (hf : s.fault = none) (hturns : s.turns = []) (he : s.fsm = .eval) :
    step s = .next (evalStep s) := by
  rw [step_scanner hf (by simp [nextTurn, defaultTurn, hturns, he]) he, spendTurn_of_nil hturns]

/-- Log entry 2: in WAIT_READ the byte source moves. -/
theorem step_waitRead {s : State} {r : SrcResponse} {rest : List SrcResponse} (hf : s.fault = none) (hturns : s.turns = [])
    (hw : s.fsm = .waitRead) (hscript : s.script = r :: rest) : step s = .next (takeResponse r (setScript rest s)) := by
  rw [step_source hf (by simp [nextTurn, defaultTurn, hturns, hw, hscript]) hscript, spendTurn_of_nil hturns]

/-- The state after the scanner asks for CHUNK bytes and the source gives the response `r`. -/
def readMore (r : SrcResponse) (rest : List SrcResponse) (s : State) : State :=
  endWait (latchSignal r.sig (bufAppend r.data (setScript rest (srcRequest s.chunk s))))

@[simp] theorem readMore_fsm (r : SrcResponse) (rest : List SrcResponse) (s : State) : (readMore r rest s).fsm = .eval := rfl
@[simp] theorem readMore_buf (r : SrcResponse) (rest : List SrcResponse) (s : State) :
    (readMore r rest s).buf = s.buf ++ r.data := by simp [readMore]
@[simp] theorem readMore_limit (r : SrcResponse) (rest : List SrcResponse) (s : State) :
    (readMore r rest s).limit = s.limit := by simp [readMore]
@[simp] theorem readMore_chunk (r : SrcResponse) (rest : List SrcResponse) (s : State) :
    (readMore r rest s).chunk = s.chunk := by simp [readMore]
@[simp] theorem readMore_fault (r : SrcResponse) (rest : List SrcResponse) (s : State) :
    (readMore r rest s).fault = s.fault := by simp [readMore]
@[simp] theorem readMore_cmds (r : SrcResponse) (rest : List SrcResponse) (s : State) :
    (readMore r rest s).cmds = s.cmds := by simp [readMore]
@[simp] theorem readMore_script (r : SrcResponse) (rest : List SrcResponse) (s : State) :
    (readMore r rest s).script = rest := by simp [readMore]
@[simp] theorem readMore_turns (r : SrcResponse) (rest : List SrcResponse) (s : State) :
    (readMore r rest s).turns = s.turns := by simp [readMore]
@[simp] theorem readMore_sent (r : SrcResponse) (rest : List SrcResponse) (s : State) :
    (readMore r rest s).sent = s.sent := by simp [readMore]

theorem unread_readMore {s : State} {r : SrcResponse} {rest : List SrcResponse} (hscript : s.script = r :: rest) :
    unread (readMore r rest s) = unread s := by
  simp [unread, hscript, streamBytes_cons]

/-- While nothing is decided, two moves read one more response. -/
theorem runSteps_readMore {s : State} {r : SrcResponse} {rest : List SrcResponse} (hf : s.fault = none)
    (hturns : s.turns = []) (he : s.fsm = .eval) (hu : Undecided s.limit.toNat s.buf) (hp : s.pending = .none)
    (hscript : s.script = r :: rest) (hlen : r.data.length ≤ s.chunk.toNat) :
    runSteps 2 s = .next (readMore r rest s) := by
  have hask : step s = .next (srcRequest s.chunk s) := by
    rw [step_eval hf hturns he, undecided_evalStep hu, needMore_of_quiet hp]
  have hgive : step (srcRequest s.chunk s) = .next (readMore r rest s) := by
    rw [step_waitRead (s := srcRequest s.chunk s) hf hturns rfl hscript,
      takeResponse_of_fits (s := setScript rest (srcRequest s.chunk s)) rfl hlen]
    rfl
  rw [runSteps_succ hask, runSteps_succ hgive]
  rfl

/- ## What the source has still to give -/

theorem awaits_congr {sig : Signal} {s t : State} (ha : Awaits sig s) (hp : t.pending = s.pending)
    (hc : t.chunk = s.chunk) (hs : t.script = s.script) (he : t.srcErr = s.srcErr) : Awaits sig t := by
  unfold Awaits at ha ⊢
  rwa [hp, hc, hs, he]

/-- A latched signal is the one awaited, and the source gives nothing more. -/
theorem Awaits.of_signal {sig : Signal} {s : State} (ha : Awaits sig s) (hp : s.pending ≠ .none) :
    s.script = [] ∧ ((s.pending = .eof ∧ sig = .eof) ∨ (s.pending = .err ∧ ∃ e, s.srcErr = some e ∧ sig = .err e)) := by
  obtain ⟨h0, -⟩ | ⟨hs, heof⟩ | ⟨hs, herr⟩ := ha
  · exact absurd h0 hp
  · exact ⟨hs, .inl heof⟩
  · exact ⟨hs, .inr herr⟩

/-- Without a latched signal a faithful source has a response of legal size, and after it the same signal is awaited. -/
theorem Awaits.exists_response {sig : Signal} {s : State} (ha : Awaits sig s) (hp : s.pending = .none) :
    ∃ r rest, s.script = r :: rest ∧ r.data.length ≤ s.chunk.toNat ∧ Awaits sig (readMore r rest s) := by
  obtain ⟨-, hok, hfaithful⟩ | ⟨-, heof, -⟩ | ⟨-, herr, -⟩ := ha
  · match hscript : s.script with
    | [] => simp [hscript, Faithful] at hfaithful
    | [r] =>
      rw [hscript] at hfaithful
      obtain ⟨hlen, rfl⟩ := hfaithful
      refine ⟨r, [], rfl, hlen, ?_⟩
      cases hsig : r.sig with
      | ok => exact absurd hsig hok
      | eof => exact .inr (.inl (by simp [readMore, hsig]))
      | err e => exact .inr (.inr (by simp [readMore, hsig]))
    | r :: r' :: rest =>
      rw [hscript] at hfaithful
      obtain ⟨hlen, hsig, hrest⟩ := hfaithful
      exact ⟨r, r' :: rest, rfl, hlen, .inl (by simpa [readMore, hsig, hp] using ⟨hok, hrest⟩)⟩
  · simp [hp] at heof
  · simp [hp] at herr

theorem unread_of_script_nil {s : State} (h : s.script = []) : unread s = s.buf := by
  simp [unread, h, streamBytes]

/- ## The end of one SCAN -/

/-- In `t` the SCAN of `s` has answered what the reference's outcome says. -/
def Answers (sig : Signal) (s t : State) : ScanOutcome → Prop
  | .frame payload rest =>
    t.fsm = .idle ∧ t.frameValid = true ∧ t.frame = payload ∧ t.sent = s.sent ++ [.scan true] ∧ unread t = rest ∧ Awaits sig t
  | .stop code value =>
    t.fsm = .done ∧ t.err = code ∧ t.sent = s.sent ++ [.scan false] ∧ (code = .sourceError → t.srcErr = value)

/-- What the SCAN of `s` leaves alone, and what it answers. -/
structure ScanEnds (sig : Signal) (s t : State) : Prop where
  fault : t.fault = none
  turns : t.turns = []
  cmds : t.cmds = s.cmds
  limit : t.limit = s.limit
  chunk : t.chunk = s.chunk
  answer : Answers sig s t (scanOne (unread s) sig s.limit.toNat)

/-- A latched signal ends the SCAN as it ends the reference (R151, R160). -/
theorem answers_of_signal {sig : Signal} {s : State} (ha : Awaits sig s) (hp : s.pending ≠ .none) :
    Answers sig s (terminate (signalCode s) s) (scanEnd (unread s) sig) := by
  obtain ⟨hscript, ⟨heof, rfl⟩ | ⟨herr, e, hvalue, rfl⟩⟩ := ha.of_signal hp
  · have hunread := unread_of_script_nil hscript
    by_cases hb : s.buf = [] <;> simp [scanEnd, Answers, signalCode, heof, hunread, hb]
  · simp [scanEnd, Answers, signalCode, herr, hvalue]

/-- An EVAL step that asks for nothing answers as the reference does on all of the stream. -/
theorem answers_evalStep {sig : Signal} {s : State} (ha : Awaits sig s)
    (hdecided : ¬ (Undecided s.limit.toNat s.buf ∧ s.pending = .none)) :
    Answers sig s (evalStep s) (scanOne (unread s) sig s.limit.toNat) := by
  obtain ⟨hcase, h⟩ | ⟨hd, hlimit, h⟩ | ⟨k, n, hd, hlimit, hlen, h⟩ | ⟨hu, h⟩ := evalStep_cases s <;> rw [h]
  · rw [unread, scanOne_of_limitCase hcase]
    exact ⟨rfl, rfl, rfl, by simp⟩
  · rw [unread, scanOne_of_tooLarge hd hlimit]
    exact ⟨rfl, rfl, rfl, by simp⟩
  · rw [unread, scanOne_of_fits hd hlimit hlen]
    exact ⟨rfl, rfl, rfl, rfl, rfl, awaits_congr ha rfl rfl rfl rfl⟩
  · have hp : s.pending ≠ .none := fun hp => hdecided ⟨hu, hp⟩
    obtain ⟨hscript, -⟩ := ha.of_signal hp
    rw [needMore_of_signal hp, scanOne_of_undecided (unread_of_script_nil hscript ▸ hu)]
    exact answers_of_signal ha hp

/-- An EVAL step writes none of these. -/
theorem evalStep_frame (s : State) : (evalStep s).fault = s.fault ∧ (evalStep s).turns = s.turns ∧
    (evalStep s).cmds = s.cmds ∧ (evalStep s).limit = s.limit ∧ (evalStep s).chunk = s.chunk := by
  obtain ⟨-, code, h⟩ | ⟨k, n, -, -, -, h⟩ | ⟨-, -, h⟩ := evalStep_ends s <;> rw [h] <;> exact ⟨rfl, rfl, rfl, rfl, rfl⟩

theorem scanEnds_evalStep {sig : Signal} {s : State} (hf : s.fault = none) (hturns : s.turns = []) (ha : Awaits sig s)
    (hdecided : ¬ (Undecided s.limit.toNat s.buf ∧ s.pending = .none)) : ScanEnds sig s (evalStep s) := by
  obtain ⟨hfault, hturns', hcmds, hlimit, hchunk⟩ := evalStep_frame s
  exact ⟨hfault.trans hf, hturns'.trans hturns, hcmds, hlimit, hchunk, answers_evalStep ha hdecided⟩

/-- The response read belongs to the unread stream before and after. -/
theorem scanEnds_of_readMore {sig : Signal} {s t : State} {r : SrcResponse} {rest : List SrcResponse}
    (hscript : s.script = r :: rest) (h : ScanEnds sig (readMore r rest s) t) : ScanEnds sig s t where
  fault := h.fault
  turns := h.turns
  cmds := h.cmds.trans (readMore_cmds r rest s)
  limit := h.limit.trans (readMore_limit r rest s)
  chunk := h.chunk.trans (readMore_chunk r rest s)
  answer := by
    have hanswer := h.answer
    rw [unread_readMore hscript, readMore_limit] at hanswer
    simpa only [Answers, readMore_sent] using hanswer

/-- A SCAN on a faithful source ends as the reference does, by induction on the responses still to come. -/
theorem exists_scanEnds {sig : Signal} {s : State} (hf : s.fault = none) (he : s.fsm = .eval) (hturns : s.turns = [])
    (ha : Awaits sig s) : ∃ k t, k ≤ 2 * s.script.length + 1 ∧ runSteps k s = .next t ∧ ScanEnds sig s t := by
  induction hn : s.script.length generalizing s with
  | zero =>
    refine ⟨1, _, Nat.le_refl _, runSteps_succ (step_eval hf hturns he) 0, scanEnds_evalStep hf hturns ha ?_⟩
    rintro ⟨-, hp⟩
    obtain ⟨r, rest, hscript, -⟩ := ha.exists_response hp
    simp [hscript] at hn
  | succ m ih =>
    by_cases hmore : Undecided s.limit.toNat s.buf ∧ s.pending = .none
    · obtain ⟨hu, hp⟩ := hmore
      obtain ⟨r, rest, hscript, hlen, ha'⟩ := ha.exists_response hp
      have hm : rest.length = m := by simpa [hscript] using hn
      obtain ⟨k, t, hk, hrun, hends⟩ := ih (s := readMore r rest s) (by simpa using hf) rfl (by simpa using hturns) ha'
        (by simpa using hm)
      refine ⟨2 + k, t, by omega, ?_, scanEnds_of_readMore hscript hends⟩
      rw [runSteps_add (runSteps_readMore hf hturns he hu hp hscript hlen), hrun]
    · exact ⟨1, _, by omega, runSteps_succ (step_eval hf hturns he) 0, scanEnds_evalStep hf hturns ha hmore⟩

/-- Settles O38: `ScanEnds` says it of the unread stream. -/
theorem scanMatchesReference : Obligations.ScanMatchesReference := by
  intro s sig hf he hturns ha
  obtain ⟨k, t, hk, hrun, hends⟩ := exists_scanEnds hf he hturns ha
  exact ⟨k, t, hk, hrun, hends.fault, hends.turns, hends.cmds, hends.limit, hends.chunk, hends.answer⟩

/- ## Progress -/

/-- An EVAL step that asks for nothing responds. -/
theorem responds_evalStep {s : State} (hdecided : ¬ (Undecided s.limit.toNat s.buf ∧ s.pending = .none)) :
    ((evalStep s).fsm = .idle ∨ (evalStep s).fsm = .done) ∧ ∃ ok, (evalStep s).sent = s.sent ++ [.scan ok] := by
  obtain ⟨-, code, h⟩ | ⟨k, n, -, -, -, h⟩ | ⟨hu, hp, -⟩ := evalStep_ends s
  · rw [h]
    exact ⟨.inr rfl, false, rfl⟩
  · rw [h]
    exact ⟨.inl rfl, true, rfl⟩
  · exact absurd ⟨hu, hp⟩ hdecided

/-- Settles O39, by induction on the responses still to come: each makes the buffer longer, and a buffer longer than LIMIT is
decided. -/
theorem scanRespondsWithinTheLimit : Obligations.ScanRespondsWithinTheLimit := by
  intro s hf he hturns hsize hlong
  induction hn : s.script.length generalizing s with
  | zero =>
    have hdecided : ¬ (Undecided s.limit.toNat s.buf ∧ s.pending = .none) := by
      rintro ⟨hu, -⟩
      have := undecided_length hu
      omega
    exact ⟨1, _, by omega, runSteps_succ (step_eval hf hturns he) 0, (evalStep_frame s).1.trans hf, responds_evalStep hdecided⟩
  | succ m ih =>
    by_cases hmore : Undecided s.limit.toNat s.buf ∧ s.pending = .none
    · obtain ⟨hu, hp⟩ := hmore
      have hbuf := undecided_length hu
      obtain ⟨r, rest, hscript⟩ := List.exists_cons_of_length_eq_add_one hn
      have hm : rest.length = m := by simpa [hscript] using hn
      obtain ⟨hone, hlen⟩ := hsize r (by simp [hscript])
      have hbuf' : (readMore r rest s).buf.length = s.buf.length + r.data.length := by simp
      obtain ⟨k, t, hk, hrun, hend⟩ := ih (readMore r rest s) (by simpa using hf) rfl (by simpa using hturns)
        (fun q hq => by simpa using hsize q (hscript ▸ List.mem_cons_of_mem r (by simpa using hq)))
        (by simp only [readMore_limit, readMore_script, hbuf', hm]; omega) (by simpa using hm)
      rw [hbuf', readMore_limit] at hk
      rw [readMore_sent] at hend
      refine ⟨2 + k, t, by omega, ?_, hend⟩
      rw [runSteps_add (runSteps_readMore hf hturns he hu hp hscript hlen), hrun]
    · exact ⟨1, _, by omega, runSteps_succ (step_eval hf hturns he) 0, (evalStep_frame s).1.trans hf, responds_evalStep hmore⟩

end Sys2Proof.Machine
end

section
/-! A host that issues SCAN and FRAME_RD in turn, and `ScanSpec` (42_scanner.md R160, R161): each frame of the reference costs one SCAN and
one FRAME_RD, and the last SCAN answers false with the cause. -/

namespace Sys2Proof.Machine

/- ## The host's moves without turns -/

/-- Log entry 2: in IDLE the host moves. -/
theorem step_idle {s : State} {c : Bytes} {rest : List Bytes} {i : Instr} (hf : s.fault = none) (hturns : s.turns = [])
    (hidle : s.fsm = .idle) (hcmds : s.cmds = c :: rest) (hd : decode c = .ok i) : step s = exec i (setCmds rest s) := by
  rw [step_host hf (by simp [nextTurn, defaultTurn, hturns, hidle, hcmds]) hcmds, spendTurn_of_nil hturns,
    runCommand_of_decode hd]

theorem step_idle_scan {s : State} {rest : List Bytes} (hf : s.fault = none) (hturns : s.turns = []) (hidle : s.fsm = .idle)
    (hcmds : s.cmds = [0x10#8] :: rest) : step s = .next (startScan (setCmds rest s)) := by
  rw [step_idle hf hturns hidle hcmds (i := .scan) rfl, exec_scan, whenLive_live (s := setCmds rest s) hf,
    scanAccept_idle (s := setCmds rest s) hidle]

theorem step_idle_frameRd {s : State} {rest : List Bytes} (hf : s.fault = none) (hturns : s.turns = [])
    (hidle : s.fsm = .idle) (hvalid : s.frameValid = true) (hcmds : s.cmds = [0x11#8] :: rest) :
    step s = .next (respond (.frameRd s.frame) (setCmds rest s)) := by
  have hfree : busy (setCmds rest s) = false := (not_busy_iff _).mpr (.inl hidle)
  rw [step_idle hf hturns hidle hcmds (i := .frameRd) rfl, exec_frameRd, whenLive_live (s := setCmds rest s) hf,
    unlessBusy_free hfree, if_pos (show (setCmds rest s).frameValid = true from hvalid)]
  rfl

/-- A SCAN issued in IDLE runs to its end. -/
theorem exists_scanEnds_of_idle {sig : Signal} {s : State} {rest : List Bytes} (hf : s.fault = none) (hturns : s.turns = [])
    (hidle : s.fsm = .idle) (ha : Awaits sig s) (hcmds : s.cmds = [0x10#8] :: rest) :
    ∃ k t, runSteps k s = .next t ∧ t.fault = none ∧ t.turns = [] ∧ t.cmds = rest ∧ t.limit = s.limit ∧
      Answers sig s t (scanOne (unread s) sig s.limit.toNat) := by
  obtain ⟨k, t, -, hrun, hends⟩ := exists_scanEnds (s := startScan (setCmds rest s)) hf rfl hturns
    (awaits_congr ha rfl rfl rfl rfl)
  exact ⟨k + 1, t, (runSteps_succ (step_idle_scan hf hturns hidle hcmds) k).trans hrun, hends.fault, hends.turns, hends.cmds,
    hends.limit, hends.answer⟩

/- ## The rounds of ScanSpec -/

theorem scanOne_of_scanSpec_nil {rounds limit : Nat} {stream : Bytes} {sig : Signal} {code : ErrCode}
    {value : Option SrcErr} (h : scanSpec rounds stream sig limit = some ([], code, value)) :
    scanOne stream sig limit = .stop code value := by
  cases rounds with
  | zero => cases h
  | succ rounds =>
    cases hone : scanOne stream sig limit with
    | stop code' value' =>
      simp only [scanSpec, hone] at h
      cases h
      rfl
    | frame payload rest =>
      simp only [scanSpec, hone] at h
      split at h <;> cases h

theorem scanOne_of_scanSpec_cons {rounds limit : Nat} {stream f : Bytes} {fs : List Bytes} {sig : Signal} {code : ErrCode}
    {value : Option SrcErr} (h : scanSpec rounds stream sig limit = some (f :: fs, code, value)) :
    ∃ rest rounds', scanOne stream sig limit = .frame f rest ∧ scanSpec rounds' rest sig limit = some (fs, code, value) := by
  cases rounds with
  | zero => cases h
  | succ rounds =>
    cases hone : scanOne stream sig limit with
    | stop code' value' =>
      simp only [scanSpec, hone] at h
      cases h
    | frame payload rest =>
      simp only [scanSpec, hone] at h
      split at h
      · cases h
      · next hrest =>
        cases h
        exact ⟨rest, rounds, rfl, hrest⟩

/- ## The sequence -/

/-- SCAN and FRAME_RD for each frame, and one SCAN more. -/
def readAll (frames : List Bytes) : List Bytes := (frames.flatMap fun _ => [[0x10#8], [0x11#8]]) ++ [[0x10#8]]

/-- What the host is answered: true and the frame for each, and false. -/
def allRead (frames : List Bytes) : List Response := (frames.flatMap fun f => [.scan true, .frameRd f]) ++ [.scan false]

theorem readAll_cons (f : Bytes) (fs : List Bytes) : readAll (f :: fs) = [0x10#8] :: [0x11#8] :: readAll fs := rfl

theorem allRead_cons (f : Bytes) (fs : List Bytes) : allRead (f :: fs) = [.scan true, .frameRd f] ++ allRead fs := rfl

/-- The host's sequence follows `ScanSpec`, by induction on its frames. -/
theorem exists_run_readAll {sig : Signal} {s : State} {frames : List Bytes} {code : ErrCode} {value : Option SrcErr}
    {rounds : Nat} (hf : s.fault = none) (hidle : s.fsm = .idle) (hturns : s.turns = []) (ha : Awaits sig s)
    (hspec : scanSpec rounds (unread s) sig s.limit.toNat = some (frames, code, value)) (hcmds : s.cmds = readAll frames) :
    ∃ k t, runSteps k s = .next t ∧ EndsWell t ∧ t.fsm = .done ∧ t.err = code ∧ (code = .sourceError → t.srcErr = value) ∧
      t.sent = s.sent ++ allRead frames := by
  induction frames generalizing s rounds with
  | nil =>
    obtain ⟨k, t, hrun, hfault, -, hcmds', -, hanswer⟩ := exists_scanEnds_of_idle hf hturns hidle ha hcmds
    rw [scanOne_of_scanSpec_nil hspec] at hanswer
    obtain ⟨hdone, herr, hsent, hvalue⟩ := hanswer
    exact ⟨k, t, hrun, ⟨hcmds', .inr hdone, hfault⟩, hdone, herr, hvalue, hsent⟩
  | cons f fs ih =>
    rw [readAll_cons] at hcmds
    obtain ⟨k, t, hrun, hfault, hturns', hcmds', hlimit, hanswer⟩ := exists_scanEnds_of_idle hf hturns hidle ha hcmds
    obtain ⟨rest, rounds', hone, hspec'⟩ := scanOne_of_scanSpec_cons hspec
    rw [hone] at hanswer
    obtain ⟨hidle', hvalid, hframe, hsent, hrest, ha'⟩ := hanswer
    rw [← hrest, ← hlimit] at hspec'
    obtain ⟨j, u, hrun', hwell, hdone, herr, hvalue, hsent'⟩ := ih
      (s := respond (.frameRd t.frame) (setCmds (readAll fs) t)) hfault hidle' hturns' (awaits_congr ha' rfl rfl rfl rfl)
      hspec' rfl
    refine ⟨k + (j + 1), u, ?_, hwell, hdone, herr, hvalue, ?_⟩
    · rw [runSteps_add hrun, runSteps_succ (step_idle_frameRd hfault hturns' hidle' hvalid hcmds'), hrun']
    · simp [hsent', hsent, hframe, allRead_cons]

/-- Settles O40: the sequence of commands and of answers is that of `exists_run_readAll`. -/
theorem scanSequenceMatchesScanSpec : Obligations.ScanSequenceMatchesScanSpec := by
  intro s sig frames code value hf hidle hturns ha hspec hcmds
  obtain ⟨k, t, hrun, hwell, hdone, herr, hvalue, hsent⟩ := exists_run_readAll hf hidle hturns ha hspec hcmds
  exact ⟨k, t, hrun, hwell, hdone, herr, hvalue, hsent.trans (List.append_assoc ..).symm⟩

/- ## Replay -/

/-- The reference takes an encoded payload from the front of the stream. -/
theorem scanOne_frmEncode_append {p : Bytes} {limit : Nat} (hp : p.length ≤ Config.maxLen)
    (hlimit : (frmEncode p).length ≤ limit) (rest : Bytes) (sig : Signal) :
    scanOne (frmEncode p ++ rest) sig limit = .frame p rest := by
  have hn := toNat_ofNat_of_le_maxLen hp
  have hlen := length_frmEncode p
  have hd := hdrDecode_frmEncode_append hp []
  rw [List.append_nil] at hd
  rw [scanOne_of_fits hd (by omega) (by omega), hn, ← hlen, List.drop_length, frmEncode, List.drop_left, List.take_length]
  rfl

/-- R161: the reference gives back the payloads of a stream of frames. -/
theorem scanSpec_flatMap_frmEncode {payloads : List Bytes} {limit rounds : Nat}
    (hfit : ∀ p ∈ payloads, p.length ≤ Config.maxLen ∧ (frmEncode p).length ≤ limit) (hrounds : payloads.length < rounds) :
    scanSpec rounds (payloads.flatMap frmEncode) .eof limit = some (payloads, .none, none) := by
  induction payloads generalizing rounds with
  | nil =>
    obtain ⟨rounds, rfl⟩ := Nat.exists_eq_add_of_le' hrounds
    rfl
  | cons p ps ih =>
    obtain ⟨rounds, rfl⟩ := Nat.exists_eq_add_of_le' (Nat.one_le_of_lt hrounds)
    obtain ⟨⟨hp, hlimit⟩, hps⟩ := List.forall_mem_cons.mp hfit
    simp only [scanSpec, List.flatMap_cons, scanOne_frmEncode_append hp hlimit, ih hps (Nat.lt_of_succ_lt_succ hrounds)]

/-- Every frame has at least its header. -/
theorem length_le_length_flatMap_frmEncode (payloads : List Bytes) :
    payloads.length ≤ (payloads.flatMap frmEncode).length := by
  induction payloads with
  | nil => exact Nat.le_refl 0
  | cons p ps ih =>
    have hone := one_le_length_hdrEncode (BitVec.ofNat 64 p.length)
    rw [List.flatMap_cons, List.length_append, List.length_cons, length_frmEncode]
    omega

/-- Settles O41: `ScanSpec` of the encoded payloads is the payloads. -/
theorem encodedPayloadsAreReplayed : Obligations.EncodedPayloadsAreReplayed := by
  intro s payloads hf hidle hturns ha hstream hfit hcmds
  have hspec := scanSpec_flatMap_frmEncode hfit (Nat.lt_succ_of_le (length_le_length_flatMap_frmEncode payloads))
  rw [← hstream] at hspec
  obtain ⟨k, t, hrun, hwell, hdone, herr, -, hsent⟩ := scanSequenceMatchesScanSpec s .eof payloads .none none hf hidle hturns ha
    hspec hcmds
  exact ⟨k, t, hrun, hwell, hdone, herr, hsent⟩

end Sys2Proof.Machine
end

section
/-! Configuration and register access (43_control.md R180 to R184): each command by the guard that decides it. -/

namespace Sys2Proof.Machine

/- ## The configuration lock (60_exceptions.md R208, R212) -/

theorem unlessStarted_busy {s : State} (hb : busy s = true) (f : State → State) :
    unlessStarted f s = raiseFault .busyViolation s :=
  unlessBusy_busy hb _

theorem unlessStarted_locked {s : State} (hb : busy s = false) (hs : s.started = true) (f : State → State) :
    unlessStarted f s = raiseFault .configAfterStart s :=
  (unlessBusy_free hb _).trans (if_pos hs)

theorem unlessStarted_free {s : State} (hb : busy s = false) (hs : s.started = false) (f : State → State) :
    unlessStarted f s = f s :=
  (unlessBusy_free hb _).trans (if_neg (Bool.eq_false_iff.mp hs))

/-- Settles O42: the three outcomes of the configuration lock. -/
theorem cfgLimitWritesLimit : Obligations.CfgLimitWritesLimit := by
  intro s v hf
  rw [exec_cfgLimit, whenLive_live hf]
  refine ⟨fun hb hs => ?_, fun hb => ?_, fun hb hs => ?_⟩
  · rw [unlessStarted_free hb hs]
    rfl
  · rw [unlessStarted_busy hb]
    rfl
  · rw [unlessStarted_locked hb hs]
    rfl

/-- Settles O43: the three outcomes of the configuration lock, and behind it the test for 0. -/
theorem cfgChunkWritesChunk : Obligations.CfgChunkWritesChunk := by
  intro s v hf
  rw [exec_cfgChunk, whenLive_live hf]
  refine ⟨fun hb hs hv => ?_, fun hb => ?_, fun hb hs => ?_, fun hb hs hv => ?_⟩
  · rw [unlessStarted_free hb hs, if_neg hv]
    rfl
  · rw [unlessStarted_busy hb]
    rfl
  · rw [unlessStarted_locked hb hs]
    rfl
  · rw [unlessStarted_free hb hs, if_pos hv]
    rfl

/- ## Register reads -/

theorem exec_regRd_of_readReg {s : State} {n : Byte} {reg : Reg} {v : Word} (hf : s.fault = none)
    (hn : regOfNumber n = some reg) (hv : readReg reg s = some v) :
    exec (.regRd n) s = .next (respond (.regRd v) s) := by
  rw [exec_regRd, whenLive_live hf]
  simp only [hn, hv]

theorem exec_regRd_of_readReg_eq_none {s : State} {n : Byte} {reg : Reg} (hf : s.fault = none)
    (hn : regOfNumber n = some reg) (hv : readReg reg s = none) :
    exec (.regRd n) s = .next (raiseFault .frameInvalid s) := by
  rw [exec_regRd, whenLive_live hf]
  simp only [hn, hv]

/-- Settles O45: the register of each number, and the value `readReg` gives for it; a reserved number is O4's second clause. -/
theorem regRdRespondsTheRegister : Obligations.RegRdRespondsTheRegister := by
  intro s hf
  refine ⟨exec_regRd_status hf, exec_regRd_of_readReg (reg := .err) hf rfl (congrArg some ?_),
    exec_regRd_of_readReg hf rfl rfl, exec_regRd_of_readReg hf rfl rfl,
    ⟨lenWord s.buf.length, exec_regRd_of_readReg hf rfl rfl, lenWord_toNat⟩,
    fun hvalid => ⟨lenWord s.frame.length, exec_regRd_of_readReg hf rfl (if_pos hvalid), lenWord_toNat⟩,
    fun hinvalid => exec_regRd_of_readReg_eq_none hf rfl (if_neg (Bool.eq_false_iff.mp hinvalid)),
    fun n hn => illegalCommandsFault.2 s n hf hn⟩
  unfold errWord
  cases s.err <;> rfl

/-- Settles O47: the busy rule, then the test of `frame_valid`. -/
theorem frameRdRespondsTheFrame : Obligations.FrameRdRespondsTheFrame := by
  intro s hf
  rw [exec_frameRd, whenLive_live hf]
  refine ⟨fun hb hvalid => ?_, fun hb => ?_, fun hb hinvalid => ?_⟩
  · rw [unlessBusy_free hb, if_pos hvalid]
    rfl
  · rw [unlessBusy_busy hb]
    rfl
  · rw [unlessBusy_free hb, if_neg (Bool.eq_false_iff.mp hinvalid)]
    rfl

/-- Settles O48: the busy rule, then the test of `err`. -/
theorem srcerrRdRespondsTheCause : Obligations.SrcerrRdRespondsTheCause := by
  intro s hf
  rw [exec_srcerrRd, whenLive_live hf]
  refine ⟨fun hb => ?_, fun hb => ?_⟩
  · rw [unlessBusy_free hb]
    by_cases he : s.err = .sourceError
    · rw [if_pos he, if_pos he]
      rfl
    · rw [if_neg he, if_neg he]
      rfl
  · rw [unlessBusy_busy hb]
    rfl

end Sys2Proof.Machine
end

section
/-! Faults (60_exceptions.md R205 to R215): what a faulting step leaves alone, what no longer moves after it, and which commands break
the busy rule. -/

namespace Sys2Proof.Machine

/- ## The busy rule (60_exceptions.md R209) -/

/-- Settles O50: of the kinds of step, only the one that keeps the registers is the host's in a busy block. -/
theorem hostStepsDuringAScanWriteNoRegister : Obligations.HostStepsDuringAScanWriteNoRegister := by
  intro s t hbusy hhost h
  cases transition_of_step h with
  | reset ht => simp [hhost] at ht
  | keeps hsame => exact hsame
  | configures _ _ hfree => simp [hbusy] at hfree
  | accepts _ _ hidle => simp [busy, hidle] at hbusy
  | evaluates ht => simp [hhost] at ht
  | takesIn ht => simp [hhost] at ht

/-- Settles O49, by the command: the five that fault go through the busy rule; of the others the encoders and REG_RD can fault, with
another code, and the decoders cannot. -/
theorem busyViolations : Obligations.BusyViolations := by
  intro s i hf hb
  constructor
  · rintro (rfl | rfl | rfl | ⟨v, rfl⟩ | ⟨v, rfl⟩)
    · exact (scanIsAccepted s hf).2.2 ((busy_iff s).mp hb)
    · exact (frameRdRespondsTheFrame s hf).2.1 hb
    · exact (srcerrRdRespondsTheCause s hf).2 hb
    · exact (cfgLimitWritesLimit s v hf).2.1 hb
    · exact (cfgChunkWritesChunk s v hf).2.1 hb
  · rintro (⟨v, rfl⟩ | ⟨d, rfl⟩ | ⟨p, rfl⟩ | ⟨d, rfl⟩ | ⟨n, rfl⟩)
    · refine ⟨_, (exec_hdrEnc v s).trans (whenLive_live hf _), ?_⟩
      split <;> simp [hf]
    · exact ⟨_, whenLive_live hf _, by simp [hf]⟩
    · refine ⟨_, (exec_frmEnc p s).trans (whenLive_live hf _), ?_⟩
      split <;> simp [hf]
    · exact ⟨_, whenLive_live hf _, by simp [hf]⟩
    · refine ⟨_, (exec_regRd n s).trans (whenLive_live hf _), ?_⟩
      split
      · simp
      · split <;> simp [hf]

/- ## The frame of a fault (60_exceptions.md R205) -/

/-- No register but `fault` has changed, and no response is sent. -/
def Silent (s t : State) : Prop := SameRegisters s t ∧ t.sent = s.sent

theorem silent_raiseFault_setCmds (c : FaultCode) (rest : List Bytes) (s : State) :
    Silent s (raiseFault c (setCmds rest (spendTurn s))) :=
  ⟨by constructor <;> rfl, rfl⟩

theorem silent_raiseFault_setScript (c : FaultCode) (rest : List SrcResponse) (s : State) :
    Silent s (raiseFault c (setScript rest (spendTurn s))) :=
  ⟨by constructor <;> rfl, rfl⟩

/-- Settles O29: the two refusals of a response. -/
theorem sourceContractBreachesFault : Obligations.SourceContractBreachesFault := by
  intro s r rest hf ht hscript
  have breach {c : FaultCode} (h : takeResponse r (setScript rest (spendTurn s)) = raiseFault c (setScript rest (spendTurn s))) :
      ∃ t, step s = .next t ∧ t.fault = some c ∧ Silent s t :=
    ⟨_, (step_source hf ht hscript).trans (congrArg _ h), rfl, silent_raiseFault_setScript c rest s⟩
  refine ⟨fun n hreq hlen => breach ?_, fun hreq => breach ?_⟩
  · simp [takeResponse, hreq, hlen]
  · simp [takeResponse, hreq]

/- ## The steps that raise a fault -/

section Raises
variable {s t : State} (hf : s.fault = none) (ht : t.fault ≠ none)
include hf ht

theorem eq_raiseFault_of_runCommand {c : Bytes} (h : runCommand c s = .next t) : ∃ f, t = raiseFault f s := by
  obtain ⟨-, hfault | ⟨r, -, rfl⟩ | ⟨v, -, -, rfl⟩ | ⟨v, -, -, -, rfl⟩ | ⟨-, -, rfl⟩⟩ := runCommand_cases h
  · exact hfault
  all_goals exact absurd hf ht

theorem eq_raiseFault_of_hostMove (h : hostMove s = .next t) : ∃ f rest, t = raiseFault f (setCmds rest s) := by
  obtain ⟨-, rfl⟩ | ⟨c, rest, -, hrun⟩ := hostMove_cases h
  · exact absurd hf ht
  · obtain ⟨f, rfl⟩ := eq_raiseFault_of_runCommand (s := setCmds rest s) hf ht hrun
    exact ⟨f, rest, rfl⟩

theorem eq_raiseFault_of_sourceMove (h : sourceMove s = .next t) : ∃ f rest, t = raiseFault f (setScript rest s) := by
  obtain ⟨-, rfl⟩ | ⟨r, rest, -, rfl⟩ := sourceMove_cases h
  · exact absurd hf ht
  · obtain ⟨-, h⟩ | ⟨n, -, -, h⟩ | ⟨n, -, -, h⟩ := takeResponse_cases r (setScript rest s)
    · exact ⟨_, rest, h⟩
    · exact ⟨_, rest, h⟩
    · simp [h, hf] at ht

end Raises

/-- The scanner's own move raises no fault. -/
theorem scannerMove_fault {s t : State} (h : scannerMove s = .next t) : t.fault = s.fault := by
  obtain ⟨-, rfl⟩ | ⟨-, rfl⟩ := scannerMove_cases h
  · rfl
  · exact (evalStep_frame s).1

theorem silent_of_step_raises {s t : State} (hf : s.fault = none) (h : step s = .next t) (ht : t.fault ≠ none) :
    Silent s t := by
  obtain ⟨src, -, rfl⟩ | ⟨-, ⟨-, rfl⟩ | ⟨-, hm⟩ | ⟨-, hm⟩ | ⟨-, hm⟩⟩ := step_cases h
  · simp at ht
  · exact absurd hf ht
  · obtain ⟨f, rest, rfl⟩ := eq_raiseFault_of_hostMove (s := spendTurn s) hf ht hm
    exact silent_raiseFault_setCmds f rest s
  · obtain ⟨f, rest, rfl⟩ := eq_raiseFault_of_sourceMove (s := spendTurn s) hf ht hm
    exact silent_raiseFault_setScript f rest s
  · exact absurd ((scannerMove_fault hm).trans hf) ht

/- ## A faulted block -/

/-- R205 guards every command alike. -/
theorem exists_exec_eq_whenLive : ∀ i : Instr, ∃ effect, ∀ s, exec i s = whenLive s effect
  | .hdrEnc L => ⟨_, exec_hdrEnc L⟩
  | .hdrDec d => ⟨_, exec_hdrDec d⟩
  | .frmEnc p => ⟨_, exec_frmEnc p⟩
  | .frmDec d => ⟨_, exec_frmDec d⟩
  | .scan => ⟨_, exec_scan⟩
  | .frameRd => ⟨_, exec_frameRd⟩
  | .srcerrRd => ⟨_, exec_srcerrRd⟩
  | .cfgLimit v => ⟨_, exec_cfgLimit v⟩
  | .cfgChunk v => ⟨_, exec_cfgChunk v⟩
  | .regRd n => ⟨_, exec_regRd n⟩

theorem exec_halted {s : State} {c : FaultCode} (i : Instr) (hf : s.fault = some c) : exec i s = .fault (.halted c) := by
  obtain ⟨effect, h⟩ := exists_exec_eq_whenLive i
  rw [h, whenLive_halted hf]

/-- Settles O53: a step that raises a fault is `raiseFault` behind the model's bookkeeping, and a recorded fault halts the rest. -/
theorem faultsAreSticky : Obligations.FaultsAreSticky :=
  ⟨fun _ _ => silent_of_step_raises, fun _ _ => step_halted, fun _ _ => exec_halted⟩

end Sys2Proof.Machine
end

section
/-! The reset step (70_reset_and_hazards.md R230): the way out of every state, a faulted one too. -/

namespace Sys2Proof.Machine

/-- A reset asks nothing of the state: the fault that halts every agent (R205) does not hold it up. -/
theorem step_reset {s : State} {src : List SrcResponse} (ht : nextTurn s = some (.reset src)) :
    step s = .next (resetBlock src (spendTurn s)) := by
  cases hf : s.fault with
  | none => exact step_live hf ht
  | some c => rw [step, takeStep, hf, ht]

/-- Settles O55: a reset step is `resetBlock`, which writes R41's values and keeps only what is the host's. -/
theorem resetSetsEveryRegister : Obligations.ResetSetsEveryRegister :=
  fun _ _ => step_reset

end Sys2Proof.Machine
end
